-- ==== Sys2Proof/Word.lean ====
section
/-! DEFINITION. The byte and register-container types of the model. -/

namespace Sys2Proof

/-- One character of the digit buffers and of the output (20_memory.md R53: every access is one byte). -/
abbrev Byte := BitVec 8

/-- The container of the registers whose width is a parameter: RAW, MAG, IREM, FREM (W bits, W at most 32) and
ERRCODE (EW bits, EW at most 32), 10_state.md R20. The rules' arithmetic is exact on naturals with explicit
`mod 2^n` (00_scope.md R6), so a rule reads `toNat`, computes, and stores with `BitVec.ofNat 32`.
DESIGN CHOICE (log entry 3): the bits at and above W (or EW) are 0 in every reachable state. -/
abbrev Word := BitVec 32

end Sys2Proof
end

