-- ==== Sys2Proof/Config.lean ====
section
/-! DEFINITION. The implementation parameters W, K, EW and what is derived from W (00_scope.md R4, R5). -/

namespace Sys2Proof

/-- The legal values of W (R4). No other width can be written down (R5). -/
inductive Width where
  | w8
  | w16
  | w32
  deriving DecidableEq, Repr

/-- W, the bit width of the fixed-point value. -/
def Width.bits : Width → Nat
  | .w8 => 8
  | .w16 => 16
  | .w32 => 32

/-- D(W), the maximum number of integer digits: 3, 5, 10 (R4). -/
def Width.digits : Width → Nat
  | .w8 => 3
  | .w16 => 5
  | .w32 => 10

/-- IB, the capacity of the integer buffer: D(W) + 1 (R4). -/
def Width.ib (w : Width) : Nat := w.digits + 1

/-- CW, the width of the command word: W + 7 (R4, R70). -/
def Width.cw (w : Width) : Nat := w.bits + 7

/-- The parameters of one FXD instance (R4). The two proof fields are R4's legal ranges, so a configuration that R5
excludes cannot be built. -/
structure Config where
  /-- W -/
  width : Width
  /-- K, the capacity of the fractional digit buffer -/
  k : Nat
  /-- EW, the bit width of the sink's error code -/
  ew : Nat
  k_legal : 1 ≤ k ∧ k ≤ 64
  ew_legal : 1 ≤ ew ∧ ew ≤ 32
  deriving DecidableEq, Repr

/-- IB of a configuration. -/
def Config.ib (c : Config) : Nat := c.width.ib

/-- W of a configuration. -/
def Config.w (c : Config) : Nat := c.width.bits

/-- The configuration with the given W, K and EW, or a refusal: R5 says that a value outside the legal ones "is not
a configuration of FXD. A model refuses it." -/
def Config.ofParams (w k ew : Nat) : Option Config :=
  if h : (1 ≤ k ∧ k ≤ 64) ∧ (1 ≤ ew ∧ ew ≤ 32) then
    match w with
    | 8 => some ⟨.w8, k, ew, h.1, h.2⟩
    | 16 => some ⟨.w16, k, ew, h.1, h.2⟩
    | 32 => some ⟨.w32, k, ew, h.1, h.2⟩
    | _ => none
  else none

/-- The same instance parameters with another W. -/
def Config.withWidth (c : Config) (w : Width) : Config := ⟨w, c.k, c.ew, c.k_legal, c.ew_legal⟩

/-- The configuration `State.reset` is given: K = 6 and EW = 8 are R4's defaults.
DESIGN CHOICE (log entry 1): W = 16; R4 gives W no default. -/
def Config.standard : Config := ⟨.w16, 6, 8, by decide, by decide⟩

end Sys2Proof
end

