-- ==== Sys2Proof/Syntax.lean ====
section
/-! DEFINITION. The instructions: one constructor per row of spec/opcode_table.json, in the table's order. -/

namespace Sys2Proof

/-- FXD's "instructions" (00_scope.md R2): the command FORMAT in its two variants and the illegal command words, for
each W (30_encoding.md R73 to R75), and the eight phase steps (R78). `raw` and `fbits` are the fields RAW and FBITS
of R70; `signed` is the field S of an illegal word, whose value does not matter (40_command.md R103). -/
inductive Instr where
  /-- FMT.U, W = 8 -/
  | fmtU8 (raw : BitVec 8) (fbits : BitVec 6)
  /-- FMT.S, W = 8 -/
  | fmtS8 (raw : BitVec 8) (fbits : BitVec 6)
  /-- ILLEGAL.FBITS, W = 8 -/
  | illegalFbits8 (raw : BitVec 8) (fbits : BitVec 6) (signed : Bool)
  /-- FMT.U, W = 16 -/
  | fmtU16 (raw : BitVec 16) (fbits : BitVec 6)
  /-- FMT.S, W = 16 -/
  | fmtS16 (raw : BitVec 16) (fbits : BitVec 6)
  /-- ILLEGAL.FBITS, W = 16 -/
  | illegalFbits16 (raw : BitVec 16) (fbits : BitVec 6) (signed : Bool)
  /-- FMT.U, W = 32 -/
  | fmtU32 (raw : BitVec 32) (fbits : BitVec 6)
  /-- FMT.S, W = 32 -/
  | fmtS32 (raw : BitVec 32) (fbits : BitVec 6)
  /-- ILLEGAL.FBITS, W = 32 -/
  | illegalFbits32 (raw : BitVec 32) (fbits : BitVec 6) (signed : Bool)
  /-- PHASE.IDLE, the step of PHASE code 0 (R101 to R103) -/
  | phaseIdle
  /-- PHASE.RESOLVE, the step of PHASE code 1 (R120) -/
  | phaseResolve
  /-- PHASE.INTDIG, the step of PHASE code 2 (R140) -/
  | phaseIntdig
  /-- PHASE.FRACDIG, the step of PHASE code 3 (R160) -/
  | phaseFracdig
  /-- PHASE.EMIT_SIGN, the step of PHASE code 4 (R182) -/
  | phaseEmitSign
  /-- PHASE.EMIT_INT, the step of PHASE code 5 (R183) -/
  | phaseEmitInt
  /-- PHASE.EMIT_POINT, the step of PHASE code 6 (R184) -/
  | phaseEmitPoint
  /-- PHASE.EMIT_FRAC, the step of PHASE code 7 (R185) -/
  | phaseEmitFrac
  deriving DecidableEq, Repr

end Sys2Proof
end

