-- ==== Sys2Proof/WellFormed.lean ====
section
/-! DEFINITION. Which instruction terms are instructions: the FBITS condition of each command row. -/

namespace Sys2Proof

/-- The "further condition" of 30_encoding.md R75 for the FMT rows, and R74's for the illegal space; a phase step has
no operands to check. -/
def Instr.wf : Instr → Bool
  | .fmtU8 _ f => f.toNat ≤ 8
  | .fmtS8 _ f => f.toNat ≤ 8
  | .illegalFbits8 _ f _ => 8 < f.toNat
  | .fmtU16 _ f => f.toNat ≤ 16
  | .fmtS16 _ f => f.toNat ≤ 16
  | .illegalFbits16 _ f _ => 16 < f.toNat
  | .fmtU32 _ f => f.toNat ≤ 32
  | .fmtS32 _ f => f.toNat ≤ 32
  | .illegalFbits32 _ f _ => 32 < f.toNat
  | .phaseIdle => true
  | .phaseResolve => true
  | .phaseIntdig => true
  | .phaseFracdig => true
  | .phaseEmitSign => true
  | .phaseEmitInt => true
  | .phaseEmitPoint => true
  | .phaseEmitFrac => true

end Sys2Proof
end

