-- ==== Sys2Proof/Decode.lean ====
section
/-! DEFINITION. Command words and PHASE codes to instructions and back (30_encoding.md R70 to R78). -/

namespace Sys2Proof

/-- A word of the opcode table: its width in bits (15, 23, 39 for a command word of W = 8, 16, 32, R70; 3 for a PHASE
code, R78) and its value, bit 0 least significant. -/
structure CodeWord where
  width : Nat
  bits : Nat
  deriving DecidableEq, Repr

/-- Why a word is no word of the opcode table. FXD's own ports carry exactly CW and 3 bits, so a step never meets
either; a caller that offers other bits does. -/
inductive DecodeError where
  /-- no table row has this width -/
  | noSuchFormat (width : Nat)
  /-- the value does not fit the width -/
  | tooWide (width bits : Nat)
  deriving DecidableEq, Repr

/-- A command word of W = 8 (R70, R72, R73, R74): RAW [7:0], FBITS [13:8], S [14]. -/
def decode8 (w : BitVec 15) : Instr :=
  let raw := w.extractLsb' 0 8
  let fbits := w.extractLsb' 8 6
  let signed := w.getLsbD 14
  if fbits.toNat ≤ 8 then (if signed then .fmtS8 raw fbits else .fmtU8 raw fbits)
  else .illegalFbits8 raw fbits signed

/-- A command word of W = 16: RAW [15:0], FBITS [21:16], S [22]. -/
def decode16 (w : BitVec 23) : Instr :=
  let raw := w.extractLsb' 0 16
  let fbits := w.extractLsb' 16 6
  let signed := w.getLsbD 22
  if fbits.toNat ≤ 16 then (if signed then .fmtS16 raw fbits else .fmtU16 raw fbits)
  else .illegalFbits16 raw fbits signed

/-- A command word of W = 32: RAW [31:0], FBITS [37:32], S [38]. -/
def decode32 (w : BitVec 39) : Instr :=
  let raw := w.extractLsb' 0 32
  let fbits := w.extractLsb' 32 6
  let signed := w.getLsbD 38
  if fbits.toNat ≤ 32 then (if signed then .fmtS32 raw fbits else .fmtU32 raw fbits)
  else .illegalFbits32 raw fbits signed

/-- A PHASE code (R78): all eight codes are used. -/
def decodePhase (c : BitVec 3) : Instr :=
  match c.toNat with
  | 0 => .phaseIdle
  | 1 => .phaseResolve
  | 2 => .phaseIntdig
  | 3 => .phaseFracdig
  | 4 => .phaseEmitSign
  | 5 => .phaseEmitInt
  | 6 => .phaseEmitPoint
  | _ => .phaseEmitFrac

/-- The command on the port of an instance of width `wd`: its `cmd_word` port has CW = W + 7 wires (R33, R70), the low
ones of the sample. Total, as R74 says. -/
def decodeCommand (wd : Width) (w : BitVec 39) : Instr :=
  match wd with
  | .w8 => decode8 (w.setWidth 15)
  | .w16 => decode16 (w.setWidth 23)
  | .w32 => decode32 w

/-- The decoder: a word of the opcode table to its instruction, or the reason it is none. -/
def decode (c : CodeWord) : Except DecodeError Instr :=
  match c.width with
  | 3 => if c.bits < 2 ^ 3 then .ok (decodePhase (BitVec.ofNat 3 c.bits)) else .error (.tooWide 3 c.bits)
  | 15 => if c.bits < 2 ^ 15 then .ok (decode8 (BitVec.ofNat 15 c.bits)) else .error (.tooWide 15 c.bits)
  | 23 => if c.bits < 2 ^ 23 then .ok (decode16 (BitVec.ofNat 23 c.bits)) else .error (.tooWide 23 c.bits)
  | 39 => if c.bits < 2 ^ 39 then .ok (decode32 (BitVec.ofNat 39 c.bits)) else .error (.tooWide 39 c.bits)
  | n => .error (.noSuchFormat n)

/-- The command word `(S << (W + 6)) | (fbits << W) | raw` of R77, as R70's three fields side by side. -/
def commandWord {n : Nat} (signed : Bool) (fbits : BitVec 6) (raw : BitVec n) : CodeWord :=
  ⟨n + 7, ((BitVec.ofBool signed ++ fbits) ++ raw).toNat⟩

/-- The encoder: the word of an instruction (R70 for commands, R78 for phase codes). -/
def encode : Instr → CodeWord
  | .fmtU8 raw f => commandWord false f raw
  | .fmtS8 raw f => commandWord true f raw
  | .illegalFbits8 raw f s => commandWord s f raw
  | .fmtU16 raw f => commandWord false f raw
  | .fmtS16 raw f => commandWord true f raw
  | .illegalFbits16 raw f s => commandWord s f raw
  | .fmtU32 raw f => commandWord false f raw
  | .fmtS32 raw f => commandWord true f raw
  | .illegalFbits32 raw f s => commandWord s f raw
  | .phaseIdle => ⟨3, 0⟩
  | .phaseResolve => ⟨3, 1⟩
  | .phaseIntdig => ⟨3, 2⟩
  | .phaseFracdig => ⟨3, 3⟩
  | .phaseEmitSign => ⟨3, 4⟩
  | .phaseEmitInt => ⟨3, 5⟩
  | .phaseEmitPoint => ⟨3, 6⟩
  | .phaseEmitFrac => ⟨3, 7⟩

/-- One row of R75's match and mask table. `variant` is S, `pattern` the match value. -/
structure MatchRow where
  variant : Bool
  width : Width
  pattern : Nat
  mask : Nat
  deriving DecidableEq, Repr

/-- R75's table, in its order. -/
def matchRows : List MatchRow :=
  [ ⟨false, .w8, 0x0000, 0x4000⟩, ⟨true, .w8, 0x4000, 0x4000⟩,
    ⟨false, .w16, 0x000000, 0x400000⟩, ⟨true, .w16, 0x400000, 0x400000⟩,
    ⟨false, .w32, 0x0000000000, 0x4000000000⟩, ⟨true, .w32, 0x4000000000, 0x4000000000⟩ ]

/-- A command word of the row's W is in the row (R75): its masked bits are the match value and its FBITS are legal. -/
def MatchRow.hits (r : MatchRow) (w : Nat) : Bool :=
  w &&& r.mask = r.pattern ∧ (w >>> r.width.bits) % 2 ^ 6 ≤ r.width.bits

/-- The instruction of a table word given with its width in whole bytes (or its exact width): 8 (3) bits are a PHASE
code, 16 (15), 24 (23) and 40 (39) bits a command word of W = 8, 16, 32. -/
def decodeTableWord (nbits w : Nat) : Option Instr :=
  let width :=
    match nbits with
    | 8 => 3
    | 16 => 15
    | 24 => 23
    | 40 => 39
    | n => n
  match decode ⟨width, w⟩ with
  | .ok i => some i
  | .error _ => none

end Sys2Proof
end

