-- ==== Sys2Proof/Machine/State.lean ====
section
/-! DEFINITION. The state of FXD (10_state.md R20), its input samples, its reset and the reasons a step can stop. -/

namespace Sys2Proof.Machine

/-- PHASE (10_state.md R21): the eight phases of 30_encoding.md R78. It plays the part of the program counter (R34). -/
inductive Phase where
  | idle
  | resolve
  | intdig
  | fracdig
  | emitSign
  | emitInt
  | emitPoint
  | emitFrac
  deriving DecidableEq, Repr

/-- RESULT (10_state.md R29): the four outcome codes of 30_encoding.md R80. -/
inductive ResultCode where
  | none
  | ok
  | errFbits
  | errSink
  deriving DecidableEq, Repr

/-- One sample of the input ports (10_state.md R33). `cmdWord` and `snkCode` hold the widest port; an instance sees the
low CW and EW bits. -/
structure Inputs where
  rst : Bool
  cmdValid : Bool
  cmdWord : BitVec 39
  snkReady : Bool
  snkErr : Bool
  snkCode : Word
  deriving DecidableEq, Repr

/-- Every input 0: no reset, no command, no answer of the sink. -/
def Inputs.quiet : Inputs := ⟨false, false, 0#39, false, false, 0#32⟩

/-- A digit buffer: its bytes by index, addresses strictly rising, no entry 0x00. A byte not listed reads 0x00, the
value reset and acceptance give every byte (10_state.md R36, 40_command.md R101). -/
abbrev Memory := List Host.Cell

/-- FXD's registers (10_state.md R20), each under the spec's name, and two fields of the model's own: `cfg`, the
parameters of this instance, which no step changes (log entry 1), and `script`, what the environment drives on the input
ports, one sample a step, the next step's first (log entry 2). -/
structure State where
  cfg : Config
  phase : Phase
  raw : Word
  fb : BitVec 6
  sgn : Bool
  mag : Word
  pol : Bool
  irem : Word
  frem : Word
  ibuf : Memory
  istart : BitVec 4
  fbuf : Memory
  fcnt : BitVec 7
  ecur : BitVec 7
  ocount : BitVec 8
  result : ResultCode
  errcode : Word
  done : Bool
  script : List Inputs
  deriving DecidableEq, Repr

/-- Why a step faults. No state reachable from reset raises one (60_exceptions.md R202). -/
inductive Fault where
  /-- An IBUF index outside 0 to IB - 1, raised by INTDIG, EMIT_SIGN and EMIT_INT. 93_implementation_defined.md item 16
  asks for a fault. Safe: the model stops where the spec defines nothing. -/
  | ibufIndex
  /-- An FBUF index outside 0 to K - 1, raised by FRACDIG and EMIT_FRAC. As `ibufIndex`. Safe. -/
  | fbufIndex
  /-- OCOUNT at 255 when a byte is accepted, raised by the emission phases. 10_state.md R28 says OCOUNT never wraps and
  gives no value for it (log entry 5). Safe: the model stops where the spec defines nothing. -/
  | ocountRange
  deriving DecidableEq, Repr

/-- Why the model has no meaning for an instruction in a state. -/
inductive Refusal where
  /-- An instruction whose meaning is not written yet, raised by exec's arm. Safe. -/
  | notModelled (mnemonic : String)
  /-- A command of another W than the instance's: the port of an instance of W carries only commands of W
  (00_scope.md R4, 30_encoding.md R70). Raised by the FMT and ILLEGAL.FBITS meanings; no step raises it (log entry 7).
  Safe. -/
  | otherWidth (width : Width)
  deriving DecidableEq, Repr

/-- Every register at its reset value (10_state.md R36, 70_reset_and_hazards.md R230), for the parameters `c`, with the
environment's `script` ahead. -/
def State.resetOf (c : Config) (script : List Inputs) : State where
  cfg := c
  phase := .idle
  raw := 0#32
  fb := 0#6
  sgn := false
  mag := 0#32
  pol := false
  irem := 0#32
  frem := 0#32
  ibuf := []
  istart := 0#4
  fbuf := []
  fcnt := 0#7
  ecur := 0#7
  ocount := 0#8
  result := .none
  errcode := 0#32
  done := false
  script := script

/-- The machine right after a reset step. DESIGN CHOICE (log entries 1 and 2): W = 16 and no inputs scripted. -/
def State.reset : State := State.resetOf Config.standard []

end Sys2Proof.Machine
end

