-- ==== Sys2Proof/Machine/Ops.lean ====
section
/-! DEFINITION. The named operations over the digit buffers, the registers and the input ports; completion (the one way a
command ends, 60_exceptions.md R200), reset, acceptance and rejection. -/

namespace Sys2Proof.Machine

/-! ### The digit buffers -/

/-- The byte at an index; a byte not listed is 0x00. -/
def Memory.get : Memory → Nat → Byte
  | [], _ => 0#8
  | (a, b) :: m, i => if a = i then b else Memory.get m i

/-- Write one byte, keeping addresses rising and no 0x00 entry. -/
def Memory.put : Memory → Nat → Byte → Memory
  | [], i, v => if v = 0#8 then [] else [(i, v)]
  | (a, b) :: m, i, v =>
    if i < a then (if v = 0#8 then (a, b) :: m else (i, v) :: (a, b) :: m)
    else if i = a then (if v = 0#8 then m else (i, v) :: m)
    else (a, b) :: Memory.put m i v

/-- The canonical form from address `lo` on: addresses at least `lo` and strictly rising, no 0x00 entry. -/
def Memory.wfFrom : Nat → Memory → Bool
  | _, [] => true
  | lo, (a, b) :: m => decide (lo ≤ a) && decide (b ≠ 0#8) && Memory.wfFrom (a + 1) m

/-- The canonical form of a digit buffer. -/
def Memory.wf (m : Memory) : Bool := Memory.wfFrom 0 m

/-- Every listed address lies inside a buffer of `cap` bytes (20_memory.md R50). -/
def Memory.within (cap : Nat) (m : Memory) : Bool := m.all fun c => decide (c.1 < cap)

/-- The `n` bytes from index `lo` on. -/
def Memory.slice (m : Memory) (lo n : Nat) : List Byte := (List.range n).map fun i => m.get (lo + i)

/-- `IBUF[i]` (20_memory.md R51): an index outside 0 to IB - 1 faults (93_implementation_defined.md item 16). -/
def State.readIbuf (s : State) (i : Nat) : Except Fault Byte :=
  if i < s.cfg.ib then .ok (s.ibuf.get i) else .error .ibufIndex

/-- `FBUF[i]`: an index outside 0 to K - 1 faults. -/
def State.readFbuf (s : State) (i : Nat) : Except Fault Byte :=
  if i < s.cfg.k then .ok (s.fbuf.get i) else .error .fbufIndex

/-- `IBUF[ISTART - 1] <- b` and `ISTART <- ISTART - 1` (42_integer_digits.md R140, R144). With ISTART = 0 there is no
such index. -/
def State.pushIbuf (s : State) (b : Byte) : Except Fault State :=
  if 0 < s.istart.toNat ∧ s.istart.toNat - 1 < s.cfg.ib then
    .ok { s with ibuf := s.ibuf.put (s.istart.toNat - 1) b, istart := s.istart - 1#4 }
  else .error .ibufIndex

/-- `FBUF[FCNT] <- b` and `FCNT <- FCNT + 1` (43_fraction_digits.md R160). -/
def State.pushFbuf (s : State) (b : Byte) : Except Fault State :=
  if s.fcnt.toNat < s.cfg.k then .ok { s with fbuf := s.fbuf.put s.fcnt.toNat b, fcnt := s.fcnt + 1#7 }
  else .error .fbufIndex

/-! ### The input ports -/

/-- The sample of the input ports in this step (10_state.md R33). DESIGN CHOICE (log entry 2): past the end of the
script every input is 0. -/
def State.input (s : State) : Inputs :=
  match s.script with
  | [] => Inputs.quiet
  | i :: _ => i

/-- The next step samples the ports afresh (10_state.md R20). -/
def State.nextSample (s : State) : State := { s with script := s.script.tail }

/-- The sink's error code as EW wires carry it (44_emission.md R181: `snk_code mod 2^EW`). -/
def State.sinkCode (s : State) : Nat := s.input.snkCode.toNat % 2 ^ s.cfg.ew

/-! ### Completion, reset, acceptance, rejection -/

/-- DONE <- 0, which every step does first (10_state.md R30). -/
def State.clearDone (s : State) : State := { s with done := false }

/-- `complete(code, e)` (60_exceptions.md R200, R205): the outcome is recorded, DONE pulses and control goes to IDLE. It
changes nothing else; there is no return operation (R206). -/
def State.complete (s : State) (code : ResultCode) (e : Nat) : State :=
  { s with result := code, errcode := BitVec.ofNat 32 e, done := true, phase := .idle }

/-- The reset step (70_reset_and_hazards.md R230): every register at its reset value. The parameters and what the
environment drives are no registers. -/
def State.resetStep (s : State) : State := State.resetOf s.cfg s.script

/-- Acceptance of a legal command (40_command.md R101). -/
def State.accept (s : State) (raw : Word) (fbits : BitVec 6) (signed : Bool) : State :=
  { s with
    raw := raw, fb := fbits, sgn := signed
    mag := 0#32, pol := false, irem := 0#32, frem := 0#32
    ibuf := [], fbuf := []
    istart := BitVec.ofNat 4 s.cfg.ib, fcnt := 0#7, ecur := 0#7, ocount := 0#8
    result := .none, errcode := 0#32
    phase := .resolve }

/-- Rejection of an illegal command (40_command.md R103): OCOUNT <- 0 and `complete(ERR_FBITS, 0)`. -/
def State.reject (s : State) : State := ({ s with ocount := 0#8 }).complete .errFbits 0

/-- OCOUNT <- OCOUNT + 1 (44_emission.md R181). R28: OCOUNT never wraps; no value is defined for 255 + 1. -/
def State.countByte (s : State) : Except Fault State :=
  if s.ocount.toNat < 255 then .ok { s with ocount := s.ocount + 1#8 } else .error .ocountRange

/-- A command of width `wd` offered to the instance: it has its `effect` in IDLE and is turned away, without any effect
and without an error, while FXD is busy (40_command.md R104). -/
def takeCommand (wd : Width) (effect : State → State) (s : State) : Host.Outcome State Fault Refusal :=
  if s.cfg.width = wd then (if s.phase = .idle then .next (effect s) else .next s)
  else .refused (.otherWidth wd)

/-- Apply `f` to the next state of an outcome. -/
def afterNext (f : State → State) : Host.Outcome State Fault Refusal → Host.Outcome State Fault Refusal
  | .next s => .next (f s)
  | .fault r => .fault r
  | .refused r => .refused r

/-- The sink handshake of the four emission phases (44_emission.md R181), `byte` being the byte offered (R186) and
`advance` the phase's Advance (R182 to R185). snk_err wins over snk_ready (60_exceptions.md R204); neither is a stall,
which changes no register (70_reset_and_hazards.md R236). -/
def emitStep (byte : Except Fault Byte) (advance : State → State) (s : State) : Host.Outcome State Fault Refusal :=
  match byte with
  | .error e => .fault e
  | .ok _ =>
    if s.input.snkErr then .next (s.complete .errSink s.sinkCode)
    else if s.input.snkReady then
      match s.countByte with
      | .error e => .fault e
      | .ok t => .next (advance t)
    else .next s

end Sys2Proof.Machine
end

