-- ==== Sys2Proof/Machine/Command.lean ====
section
/-! DEFINITION. The command rows and PHASE.IDLE (40_command.md R101 to R104): FMT.U, FMT.S and ILLEGAL.FBITS for each W. -/

namespace Sys2Proof.Machine

/-- FMT.U, W = 8: acceptance with S = 0 (R101). -/
def execFmtU8 (raw : BitVec 8) (fbits : BitVec 6) (s : State) : Host.Outcome State Fault Refusal :=
  takeCommand .w8 (fun t => t.accept (raw.setWidth 32) fbits false) s

/-- FMT.S, W = 8: acceptance with S = 1 (R101). -/
def execFmtS8 (raw : BitVec 8) (fbits : BitVec 6) (s : State) : Host.Outcome State Fault Refusal :=
  takeCommand .w8 (fun t => t.accept (raw.setWidth 32) fbits true) s

/-- ILLEGAL.FBITS, W = 8: rejection (R103); no field of the word matters. -/
def execIllegalFbits8 (s : State) : Host.Outcome State Fault Refusal :=
  takeCommand .w8 State.reject s

/-- FMT.U, W = 16 (R101). -/
def execFmtU16 (raw : BitVec 16) (fbits : BitVec 6) (s : State) : Host.Outcome State Fault Refusal :=
  takeCommand .w16 (fun t => t.accept (raw.setWidth 32) fbits false) s

/-- FMT.S, W = 16 (R101). -/
def execFmtS16 (raw : BitVec 16) (fbits : BitVec 6) (s : State) : Host.Outcome State Fault Refusal :=
  takeCommand .w16 (fun t => t.accept (raw.setWidth 32) fbits true) s

/-- ILLEGAL.FBITS, W = 16 (R103). -/
def execIllegalFbits16 (s : State) : Host.Outcome State Fault Refusal :=
  takeCommand .w16 State.reject s

/-- FMT.U, W = 32 (R101). -/
def execFmtU32 (raw : BitVec 32) (fbits : BitVec 6) (s : State) : Host.Outcome State Fault Refusal :=
  takeCommand .w32 (fun t => t.accept raw fbits false) s

/-- FMT.S, W = 32 (R101). -/
def execFmtS32 (raw : BitVec 32) (fbits : BitVec 6) (s : State) : Host.Outcome State Fault Refusal :=
  takeCommand .w32 (fun t => t.accept raw fbits true) s

/-- ILLEGAL.FBITS, W = 32 (R103). -/
def execIllegalFbits32 (s : State) : Host.Outcome State Fault Refusal :=
  takeCommand .w32 State.reject s

/-- FBITS of the word on the command port (30_encoding.md R72): `cmd_word[W+5:W]`. -/
def State.portFbits (s : State) : BitVec 6 := s.input.cmdWord.extractLsb' s.cfg.w 6

/-- RAW of the word on the command port (R71): `cmd_word[W-1:0]`. -/
def State.portRaw (s : State) : Word := BitVec.ofNat 32 (s.input.cmdWord.toNat % 2 ^ s.cfg.w)

/-- S of the word on the command port (R73): `cmd_word[W+6]`. -/
def State.portSigned (s : State) : Bool := s.input.cmdWord.getLsbD (s.cfg.w + 6)

/-- PHASE.IDLE: without a command nothing happens (R102); with one, it is validated and accepted (R101) or rejected
(R103). -/
def execPhaseIdle (s : State) : Host.Outcome State Fault Refusal :=
  if s.input.cmdValid then
    if s.portFbits.toNat ≤ s.cfg.w then .next (s.accept s.portRaw s.portFbits s.portSigned)
    else .next s.reject
  else .next { s with phase := .idle }

end Sys2Proof.Machine
end

