-- ==== Sys2Proof/Machine/Operands.lean ====
section
/-! DEFINITION. The arithmetic of the phases (41_sign_resolution.md, 42_integer_digits.md, 43_fraction_digits.md), exact
on naturals with every wrap-around written out (00_scope.md R6). -/

namespace Sys2Proof.Machine

/-- `mask(F) = 2^F - 1` (41_sign_resolution.md R123; 10_state.md R31). -/
def fracMask (f : Nat) : Nat := 2 ^ f - 1

/-- `IntPart(m, F) = m >> F` (R122). -/
def intPart (m f : Nat) : Nat := m >>> f

/-- `FracPart(m, F) = m & mask(F)` (R122). -/
def fracPart (m f : Nat) : Nat := m &&& fracMask f

/-- What sign resolution returns: magnitude, polarity, integer part, fractional part (R121). -/
structure Resolved where
  mag : Nat
  pol : Bool
  ip : Nat
  fp : Nat
  deriving DecidableEq, Repr

/-- `ResolveFn(raw, F, S)` (R121), with the most-negative value of R124 as its own case. -/
def resolveFn (wd : Width) (raw f : Nat) (signed : Bool) : Resolved :=
  if signed = false ∨ raw.testBit (wd.bits - 1) = false then ⟨raw, false, intPart raw f, fracPart raw f⟩
  else if raw = 2 ^ (wd.bits - 1) then
    if f < wd.bits then ⟨2 ^ (wd.bits - 1), true, 2 ^ (wd.bits - f - 1), 0⟩
    else ⟨2 ^ (wd.bits - 1), true, 0, 2 ^ (wd.bits - 1)⟩
  else ⟨2 ^ wd.bits - raw, true, intPart (2 ^ wd.bits - raw) f, fracPart (2 ^ wd.bits - raw) f⟩

/-- The headroom condition (43_fraction_digits.md R161): the pre-shift applies iff `F + 4 > W`. -/
def preShift (wd : Width) (f : Nat) : Bool := wd.bits < f + 4

/-- `WorkCopy(r, F)` (R162): the working copy and its fractional bits. -/
def workCopy (wd : Width) (r f : Nat) : Nat × Nat := if preShift wd f then (r >>> 4, f - 4) else (r, f)

/-- One fractional digit (R163): `(((wv * 10) mod 2^W) >> wf) mod 10`. -/
def fracDigit (wd : Width) (r f : Nat) : Nat :=
  (((workCopy wd r f).1 * 10 % 2 ^ wd.bits) >>> (workCopy wd r f).2) % 10

/-- The true remainder after one digit (R164): `((r * 10) mod 2^W) & mask(F)`. -/
def nextRemainder (wd : Width) (r f : Nat) : Nat := (r * 10 % 2 ^ wd.bits) &&& fracMask f

/-- `'0' + d` (00_scope.md R8). -/
def digitByte (d : Nat) : Byte := BitVec.ofNat 8 (0x30 + d)

/-- `'-'` (R8). -/
def minusByte : Byte := 0x2D#8

/-- `'.'` (R8). -/
def pointByte : Byte := 0x2E#8

end Sys2Proof.Machine
end

