-- ==== Sys2Proof/Machine/Emission.lean ====
section
/-! DEFINITION. The emission phases: PHASE.EMIT_SIGN, PHASE.EMIT_INT, PHASE.EMIT_POINT and PHASE.EMIT_FRAC
(44_emission.md R182 to R185), each the handshake of R181 with its own byte and its own Advance. -/

namespace Sys2Proof.Machine

/-- Advance(EMIT_SIGN) (R182). -/
def advanceEmitSign (s : State) : State := { s with ecur := s.ecur + 1#7, phase := .emitInt }

/-- Advance(EMIT_INT) (R183). -/
def advanceEmitInt (s : State) : State :=
  if (s.ecur + 1#7).toNat = s.cfg.ib then { s with ecur := s.ecur + 1#7, phase := .emitPoint }
  else { s with ecur := s.ecur + 1#7 }

/-- Advance(EMIT_POINT) (R184). -/
def advanceEmitPoint (s : State) : State := { s with ecur := 0#7, phase := .emitFrac }

/-- Advance(EMIT_FRAC) (R185): after the last digit, `complete(OK, 0)`. -/
def advanceEmitFrac (s : State) : State :=
  if s.ecur + 1#7 = s.fcnt then ({ s with ecur := s.ecur + 1#7 }).complete .ok 0
  else { s with ecur := s.ecur + 1#7 }

/-- PHASE.EMIT_SIGN (R182). -/
def execPhaseEmitSign (s : State) : Host.Outcome State Fault Refusal :=
  emitStep (s.readIbuf s.ecur.toNat) advanceEmitSign s

/-- PHASE.EMIT_INT (R183). -/
def execPhaseEmitInt (s : State) : Host.Outcome State Fault Refusal :=
  emitStep (s.readIbuf s.ecur.toNat) advanceEmitInt s

/-- PHASE.EMIT_POINT (R184): the byte is a constant, read from no buffer. -/
def execPhaseEmitPoint (s : State) : Host.Outcome State Fault Refusal :=
  emitStep (.ok pointByte) advanceEmitPoint s

/-- PHASE.EMIT_FRAC (R185). -/
def execPhaseEmitFrac (s : State) : Host.Outcome State Fault Refusal :=
  emitStep (s.readFbuf s.ecur.toNat) advanceEmitFrac s

end Sys2Proof.Machine
end

