-- ==== Sys2Proof/Machine/Phases.lean ====
section
/-! DEFINITION. The digit phases: PHASE.RESOLVE (41_sign_resolution.md R120), PHASE.INTDIG (42_integer_digits.md R140)
and PHASE.FRACDIG (43_fraction_digits.md R160). They ignore the sink and command ports (60_exceptions.md R204). -/

namespace Sys2Proof.Machine

/-- PHASE.RESOLVE (R120). -/
def execPhaseResolve (s : State) : Host.Outcome State Fault Refusal :=
  let r := resolveFn s.cfg.width s.raw.toNat s.fb.toNat s.sgn
  .next { s with
    mag := BitVec.ofNat 32 r.mag, pol := r.pol
    irem := BitVec.ofNat 32 r.ip, frem := BitVec.ofNat 32 r.fp
    phase := .intdig }

/-- The end of INTDIG, when the quotient is 0 (R140, R144): the sign byte below the digits if POL = 1, then FRACDIG. -/
def finishIntdig (s : State) : Host.Outcome State Fault Refusal :=
  if s.pol then
    match s.pushIbuf minusByte with
    | .error e => .fault e
    | .ok t => .next { t with phase := .fracdig }
  else .next { s with phase := .fracdig }

/-- PHASE.INTDIG (R140): one integer digit. The digit is written before the quotient is tested (R143). -/
def execPhaseIntdig (s : State) : Host.Outcome State Fault Refusal :=
  let d := s.irem.toNat % 10
  let q := s.irem.toNat / 10
  match s.pushIbuf (digitByte d) with
  | .error e => .fault e
  | .ok t =>
    if q = 0 then finishIntdig { t with irem := BitVec.ofNat 32 q }
    else .next { t with irem := BitVec.ofNat 32 q }

/-- PHASE.FRACDIG (R160): one fractional digit from the working copy, then the true remainder; the phase ends when that
is 0 or K digits are written (R165). -/
def execPhaseFracdig (s : State) : Host.Outcome State Fault Refusal :=
  let d := fracDigit s.cfg.width s.frem.toNat s.fb.toNat
  let f2 := nextRemainder s.cfg.width s.frem.toNat s.fb.toNat
  match s.pushFbuf (digitByte d) with
  | .error e => .fault e
  | .ok t =>
    if f2 = 0 ∨ t.fcnt.toNat = t.cfg.k then
      .next { t with
        frem := BitVec.ofNat 32 f2
        ecur := t.istart.setWidth 7
        phase := if t.pol then .emitSign else .emitInt }
    else .next { t with frem := BitVec.ofNat 32 f2 }

end Sys2Proof.Machine
end

