-- ==== Sys2Proof/Machine/Dispatch.lean ====
section
/-! DEFINITION. The dispatch: one meaning per instruction. -/

namespace Sys2Proof.Machine

def exec (i : Instr) (s : State) : Host.Outcome State Fault Refusal :=
  match i with
  | .fmtU8 raw fbits => Sys2Proof.Machine.execFmtU8 raw fbits s
  | .fmtS8 raw fbits => Sys2Proof.Machine.execFmtS8 raw fbits s
  | .illegalFbits8 _ _ _ => Sys2Proof.Machine.execIllegalFbits8 s
  | .fmtU16 raw fbits => Sys2Proof.Machine.execFmtU16 raw fbits s
  | .fmtS16 raw fbits => Sys2Proof.Machine.execFmtS16 raw fbits s
  | .illegalFbits16 _ _ _ => Sys2Proof.Machine.execIllegalFbits16 s
  | .fmtU32 raw fbits => Sys2Proof.Machine.execFmtU32 raw fbits s
  | .fmtS32 raw fbits => Sys2Proof.Machine.execFmtS32 raw fbits s
  | .illegalFbits32 _ _ _ => Sys2Proof.Machine.execIllegalFbits32 s
  | .phaseIdle => Sys2Proof.Machine.execPhaseIdle s
  | .phaseResolve => Sys2Proof.Machine.execPhaseResolve s
  | .phaseIntdig => Sys2Proof.Machine.execPhaseIntdig s
  | .phaseFracdig => Sys2Proof.Machine.execPhaseFracdig s
  | .phaseEmitSign => Sys2Proof.Machine.execPhaseEmitSign s
  | .phaseEmitInt => Sys2Proof.Machine.execPhaseEmitInt s
  | .phaseEmitPoint => Sys2Proof.Machine.execPhaseEmitPoint s
  | .phaseEmitFrac => Sys2Proof.Machine.execPhaseEmitFrac s

end Sys2Proof.Machine
end

