-- ==== Sys2Proof/Machine/Flags.lean ====
section
/-! DEFINITION. The codes of PHASE, RESULT and the segments, the derived flags and the status word (30_encoding.md R78 to
R81; 10_state.md R32, R35). The stored flags POL and DONE are fields of State, written by Ops and Phases. -/

namespace Sys2Proof.Machine

/-- The PHASE code (30_encoding.md R78). -/
def Phase.code : Phase → BitVec 3
  | .idle => 0#3
  | .resolve => 1#3
  | .intdig => 2#3
  | .fracdig => 3#3
  | .emitSign => 4#3
  | .emitInt => 5#3
  | .emitPoint => 6#3
  | .emitFrac => 7#3

/-- The step rule a phase selects (R78). -/
def Phase.instr : Phase → Instr
  | .idle => .phaseIdle
  | .resolve => .phaseResolve
  | .intdig => .phaseIntdig
  | .fracdig => .phaseFracdig
  | .emitSign => .phaseEmitSign
  | .emitInt => .phaseEmitInt
  | .emitPoint => .phaseEmitPoint
  | .emitFrac => .phaseEmitFrac

/-- The RESULT code (R80). -/
def ResultCode.code : ResultCode → BitVec 2
  | .none => 0#2
  | .ok => 1#2
  | .errFbits => 2#2
  | .errSink => 3#2

/-- busy: PHASE ≠ IDLE (10_state.md R32, R35). -/
def State.busy (s : State) : Bool := s.phase ≠ .idle

/-- cmd_ready: PHASE = IDLE (R32). -/
def State.cmdReady (s : State) : Bool := s.phase = .idle

/-- The status word (30_encoding.md R79), 16 + EW bits: BUSY [0], DONE [1], RESULT [3:2], 0 [7:4], OCOUNT [15:8],
ERRCODE [16+EW-1:16]. The host cannot write it. -/
def State.status (s : State) : BitVec (16 + s.cfg.ew) :=
  BitVec.ofNat (16 + s.cfg.ew)
    (s.busy.toNat + 2 * s.done.toNat + 4 * s.result.code.toNat + 256 * s.ocount.toNat + 65536 * s.errcode.toNat)

end Sys2Proof.Machine
end

