-- ==== Sys2Proof/Machine/Fetch.lean ====
section
/-! DEFINITION. What a step runs: the command on the port in IDLE, else the rule PHASE selects (30_encoding.md R78), and
how an instruction is put where the next step takes it. -/

namespace Sys2Proof.Machine

/-- The instruction of this step. In IDLE with cmd_valid = 1 it is the command on the port (20_memory.md R60); in every
other phase the command port is not read (40_command.md R104). -/
def State.fetch (s : State) : Instr :=
  if s.phase = .idle ∧ s.input.cmdValid then decodeCommand s.cfg.width s.input.cmdWord else s.phase.instr

/-- `s` with `i` as the sample of the next step, in place of the one it had. -/
def State.withInput (s : State) (i : Inputs) : State := { s with script := i :: s.script.tail }

/-- `s` where the next step runs the command word `w` of width `wd`: the host offers it in IDLE, without reset. Another
W is another instance of the block, taken at its reset state (log entry 8). -/
def State.placeCommand (s : State) (wd : Width) (w : Nat) : State :=
  let t := if s.cfg.width = wd then s else State.resetOf (s.cfg.withWidth wd) s.script
  { t.withInput { t.input with rst := false, cmdValid := true, cmdWord := BitVec.ofNat 39 w } with phase := .idle }

/-- `s` where the next step runs the rule of phase `p`: PHASE selects it (R78), without reset, and in IDLE without a
command. INTDIG needs a free byte below ISTART (10_state.md R37 item 3), so ISTART = 0 becomes the IB of acceptance
(R101; log entry 8). -/
def State.placePhase (s : State) (p : Phase) : State :=
  let i := { s.input with rst := false, cmdValid := s.input.cmdValid && decide (p ≠ .idle) }
  let start := if p = .intdig ∧ s.istart = 0#4 then BitVec.ofNat 4 s.cfg.ib else s.istart
  { s.withInput i with phase := p, istart := start }

/-- The phase of a PHASE code (R78). -/
def Phase.ofCode (c : BitVec 3) : Phase :=
  match c.toNat with
  | 0 => .idle
  | 1 => .resolve
  | 2 => .intdig
  | 3 => .fracdig
  | 4 => .emitSign
  | 5 => .emitInt
  | 6 => .emitPoint
  | _ => .emitFrac

/-- A table word of `nbits` bits (whole bytes, or exact) put where the next step takes it. -/
def State.placeWord (s : State) (nbits w : Nat) : State :=
  match nbits with
  | 3 | 8 => s.placePhase (Phase.ofCode (BitVec.ofNat 3 w))
  | 15 | 16 => s.placeCommand .w8 w
  | 23 | 24 => s.placeCommand .w16 w
  | 39 | 40 => s.placeCommand .w32 w
  | _ => s

end Sys2Proof.Machine
end

