-- ==== Sys2Proof/Machine/Step.lean ====
section
/-! DEFINITION. One step of FXD: one clock edge (00_scope.md R7). -/

namespace Sys2Proof.Machine

/-- One step: the ports are sampled, then the reset rule runs when rst = 1 (it wins over everything, 60_exceptions.md
R204) and else, after DONE <- 0 (10_state.md R30), the instruction of this step. The next step takes the next sample. -/
def step (s : State) : Host.Outcome State Fault Refusal :=
  if s.input.rst then .next s.resetStep.nextSample
  else afterNext State.nextSample (exec s.fetch s.clearDone)

/-- `s` with a table word where the next step takes its instruction: the word stands on the command port, or PHASE holds
the code (log entry 8). -/
def State.withFetchWord (s : State) (nbits w : Nat) : State := s.placeWord nbits w

end Sys2Proof.Machine
end

