-- ==== Sys2Proof/Machine/Asm.lean ====
section
/-! DEFINITION. The assembler syntax of commands (30_encoding.md R77): `FMT.U <raw>, <fbits>` and `FMT.S <raw>, <fbits>`. -/

namespace Sys2Proof.Machine

/-- The command word of an instruction written with the literals `raw` and `fbits` (R77): raw in 0 to 2^W - 1, for FMT.S
also negative from -2^(W-1), standing for raw + 2^W; fbits in 0 to 63, also above W.
`cmd_word = (S << (W + 6)) | (fbits << W) | raw`. -/
def assembleCommand (wd : Width) (signed : Bool) (raw : Int) (fbits : Nat) : Option CodeWord :=
  if 63 < fbits then none
  else if 0 ≤ raw ∧ raw < 2 ^ wd.bits then
    some ⟨wd.cw, signed.toNat <<< (wd.bits + 6) ||| fbits <<< wd.bits ||| raw.toNat⟩
  else if signed ∧ -(2 ^ (wd.bits - 1)) ≤ raw ∧ raw < 0 then
    some ⟨wd.cw, signed.toNat <<< (wd.bits + 6) ||| fbits <<< wd.bits ||| (raw + 2 ^ wd.bits).toNat⟩
  else none

/-- The value of a digit character, letters for ten to fifteen. -/
def digitValue (c : Char) : Option Nat :=
  if '0'.toNat ≤ c.toNat ∧ c.toNat ≤ '9'.toNat then some (c.toNat - '0'.toNat)
  else if 'a'.toNat ≤ c.toNat ∧ c.toNat ≤ 'f'.toNat then some (c.toNat - 'a'.toNat + 10)
  else if 'A'.toNat ≤ c.toNat ∧ c.toNat ≤ 'F'.toNat then some (c.toNat - 'A'.toNat + 10)
  else none

/-- The value of the digits `cs` in `base`, after digits worth `acc`. -/
def digitsValue (base : Nat) : Nat → List Char → Option Nat
  | acc, [] => some acc
  | acc, c :: cs =>
    match digitValue c with
    | some d => if d < base then digitsValue base (acc * base + d) cs else none
    | none => none

/-- A decimal literal: one or more digits. -/
def decimalLiteral (cs : List Char) : Option Nat := if cs = [] then none else digitsValue 10 0 cs

/-- An unsigned literal, decimal or `0x` hexadecimal. -/
def unsignedLiteral : List Char → Option Nat
  | '0' :: 'x' :: cs => if cs = [] then none else digitsValue 16 0 cs
  | cs => decimalLiteral cs

/-- A `<raw>` literal: unsigned, or negative decimal (R77's -2^(W-1) to -1, so not -0). -/
def rawLiteral : List Char → Option Int
  | '-' :: cs =>
    match decimalLiteral cs with
    | some 0 => none
    | n => n.map fun n => -(n : Int)
  | cs => (unsignedLiteral cs).map fun n => (n : Int)

/-- `cs` without the spaces it begins with. -/
def skipSpaces : List Char → List Char
  | ' ' :: cs => skipSpaces cs
  | cs => cs

/-- `cs` without the spaces around it. -/
def trimSpaces (cs : List Char) : List Char := (skipSpaces (skipSpaces cs).reverse).reverse

/-- The operands `<raw>, <fbits>`, each with spaces around it or not (DESIGN CHOICE, log entry 11). -/
def assembleOperands (wd : Width) (signed : Bool) (cs : List Char) : Option CodeWord :=
  match rawLiteral (trimSpaces (cs.takeWhile (· ≠ ','))), cs.dropWhile (· ≠ ',') with
  | some raw, ',' :: rest =>
    match decimalLiteral (trimSpaces rest) with
    | some fbits => assembleCommand wd signed raw fbits
    | none => none
  | _, _ => none

/-- One line of assembler text (R77). -/
def assembleLine (wd : Width) : List Char → Option CodeWord
  | 'F' :: 'M' :: 'T' :: '.' :: 'U' :: ' ' :: cs => assembleOperands wd false cs
  | 'F' :: 'M' :: 'T' :: '.' :: 'S' :: ' ' :: cs => assembleOperands wd true cs
  | _ => none

end Sys2Proof.Machine
end

