-- ==== Sys2Proof/Machine/Format.lean ====
section
/-! DEFINITION. The reference function FORMAT (40_command.md R100) and the digit lists it is made of. -/

namespace Sys2Proof.Machine

/-- The loop of `IntDigits` (42_integer_digits.md R141), at most `rounds` times: `ds` are the digits found so far. -/
def intDigitsLoop : Nat → Nat → List Nat → List Nat
  | 0, _, ds => ds
  | rounds + 1, x, ds =>
    if x / 10 = 0 then x % 10 :: ds else intDigitsLoop rounds (x / 10) (x % 10 :: ds)

/-- `IntDigits(x)` (R141), most significant digit first. Ten rounds are enough for every W: R142 bounds them by D(W),
at most 10. -/
def intDigits (x : Nat) : List Nat := intDigitsLoop 10 x []

/-- The loop of `FracDigits` (43_fraction_digits.md R167), at most `rounds` digits. -/
def fracDigitsLoop (wd : Width) (f : Nat) : Nat → Nat → List Nat
  | 0, _ => []
  | rounds + 1, r =>
    fracDigit wd r f :: if nextRemainder wd r f = 0 then [] else fracDigitsLoop wd f rounds (nextRemainder wd r f)

/-- `FracDigits(fp, F)` (R167): at most K digits, in emission order. -/
def fracDigits (c : Config) (fp f : Nat) : List Nat := fracDigitsLoop c.width f c.k fp

/-- The sign segment: '-' iff the polarity is negative. -/
def signBytes (pol : Bool) : List Byte := if pol then [minusByte] else []

/-- `FORMAT(raw, F, S)` (40_command.md R100). -/
def format (c : Config) (raw f : Nat) (signed : Bool) : List Byte :=
  let r := resolveFn c.width raw f signed
  signBytes r.pol ++ (intDigits r.ip).map digitByte ++ [pointByte] ++ (fracDigits c r.fp f).map digitByte

/-- The steps of a legal command from acceptance to completion without stalls (70_reset_and_hazards.md R238):
`3 + pol + 2 ni + 2 nf`. -/
def stepCount (c : Config) (raw f : Nat) (signed : Bool) : Nat :=
  let r := resolveFn c.width raw f signed
  3 + r.pol.toNat + 2 * (intDigits r.ip).length + 2 * (fracDigits c r.fp f).length

end Sys2Proof.Machine
end

