-- ==== Sys2Proof/Machine/Ports.lean ====
section
/-! DEFINITION. The byte port to the sink: functions of the state at the start of a step (44_emission.md R186;
10_state.md R32). -/

namespace Sys2Proof.Machine

/-- out_valid: PHASE is one of the four emission phases. -/
def State.outValid (s : State) : Bool :=
  match s.phase with
  | .emitSign | .emitInt | .emitPoint | .emitFrac => true
  | _ => false

/-- out_byte: IBUF[ECUR], '.', or FBUF[ECUR]; 0x00 outside emission. -/
def State.outByte (s : State) : Except Fault Byte :=
  match s.phase with
  | .emitSign | .emitInt => s.readIbuf s.ecur.toNat
  | .emitPoint => .ok pointByte
  | .emitFrac => s.readFbuf s.ecur.toNat
  | _ => .ok 0#8

/-- out_seg: PHASE - 4 during emission, else 0 (R81: 0 SIGN, 1 INT, 2 POINT, 3 FRAC). -/
def State.outSeg (s : State) : BitVec 2 :=
  match s.phase with
  | .emitInt => 1#2
  | .emitPoint => 2#2
  | .emitFrac => 3#2
  | _ => 0#2

/-- out_seg_last: the byte is the last of its segment. -/
def State.outSegLast (s : State) : Bool :=
  match s.phase with
  | .emitSign | .emitPoint => true
  | .emitInt => s.ecur.toNat + 1 = s.cfg.ib
  | .emitFrac => s.ecur.toNat + 1 = s.fcnt.toNat
  | _ => false

/-- out_end: the byte is the last of the string. -/
def State.outEnd (s : State) : Bool := s.phase = .emitFrac ∧ s.ecur.toNat + 1 = s.fcnt.toNat

/-- The byte the sink takes in this step, if it takes one (20_memory.md R55): out_valid, no reset, snk_err = 0 and
snk_ready = 1. -/
def State.transferred (s : State) : List Byte :=
  if s.outValid ∧ s.input.rst = false ∧ s.input.snkErr = false ∧ s.input.snkReady then
    match s.outByte with
    | .ok b => [b]
    | .error _ => []
  else []

end Sys2Proof.Machine
end

