-- ==== Sys2Proof/Safety.lean ====
section
/-! DEFINITION. What counts as a safe state (10_state.md R37), the bytes still to send, and runs of several steps. -/

namespace Sys2Proof.Machine

/-- A byte `'0' + d` with d in 0 to 9. -/
abbrev isDigitByte (b : Byte) : Prop := 0x30 ≤ b.toNat ∧ b.toNat ≤ 0x39

/-- Every register holds a value of its width (00_scope.md R6). Only the parametric widths need saying. -/
abbrev State.widthsFit (s : State) : Prop :=
  s.raw.toNat < 2 ^ s.cfg.w ∧ s.mag.toNat < 2 ^ s.cfg.w ∧ s.irem.toNat < 2 ^ s.cfg.w ∧
  s.frem.toNat < 2 ^ s.cfg.w ∧ s.errcode.toNat < 2 ^ s.cfg.ew

/-- Both buffers are in canonical form and inside their capacity (20_memory.md R50). -/
abbrev State.buffersFit (s : State) : Prop :=
  s.ibuf.wf = true ∧ s.ibuf.within s.cfg.ib = true ∧ s.fbuf.wf = true ∧ s.fbuf.within s.cfg.k = true

/-- The used region of IBUF is '-' (iff POL = 1) followed by at least one digit (10_state.md R37 item 4). -/
abbrev State.intRegion (s : State) : Prop :=
  s.istart.toNat + s.pol.toNat < s.cfg.ib ∧
  (s.pol = true → s.ibuf.get s.istart.toNat = minusByte) ∧
  ∀ i < s.cfg.ib, s.istart.toNat + s.pol.toNat ≤ i → isDigitByte (s.ibuf.get i)

/-- The used region of FBUF lies inside FBUF and holds digits. -/
abbrev State.fracRegion (s : State) : Prop :=
  s.fcnt.toNat ≤ s.cfg.k ∧ ∀ i < s.fcnt.toNat, isDigitByte (s.fbuf.get i)

/-- What holds while a command is in flight, whatever the phase: R37 item 1, and R29, R30 for the status registers. -/
abbrev State.flightOk (s : State) : Prop :=
  s.fb.toNat ≤ s.cfg.w ∧ s.result = .none ∧ s.errcode = 0#32 ∧ s.done = false

/-- RESOLVE (R37 item 2). -/
abbrev State.resolveOk (s : State) : Prop :=
  s.istart.toNat = s.cfg.ib ∧ s.fcnt = 0#7 ∧ s.ocount = 0#8 ∧ s.ibuf = [] ∧ s.fbuf = []

/-- INTDIG (R37 item 3), with what is already written. -/
abbrev State.intdigOk (s : State) : Prop :=
  s.istart.toNat ≤ s.cfg.ib ∧
  s.cfg.ib - s.istart.toNat + (intDigits s.irem.toNat).length ≤ s.cfg.width.digits ∧
  s.frem.toNat ≤ fracMask s.fb.toNat ∧ s.fcnt = 0#7 ∧ s.ocount = 0#8 ∧ s.fbuf = [] ∧
  ∀ i < s.cfg.ib, s.istart.toNat ≤ i → isDigitByte (s.ibuf.get i)

/-- FRACDIG (R37 items 4 and 5). -/
abbrev State.fracdigOk (s : State) : Prop :=
  s.intRegion ∧ s.fracRegion ∧ s.frem.toNat ≤ fracMask s.fb.toNat ∧ s.fcnt.toNat < s.cfg.k ∧
  (1 ≤ s.fcnt.toNat → s.frem ≠ 0#32) ∧ s.ocount = 0#8

/-- What the four emission phases share (R37 items 4 and 6). -/
abbrev State.emitOk (s : State) : Prop :=
  s.intRegion ∧ s.fracRegion ∧ s.frem.toNat ≤ fracMask s.fb.toNat ∧ 1 ≤ s.fcnt.toNat

/-- The invariant of the phase: R37 items 2 to 9, and OCOUNT as the bytes of the string before the one on offer (items 7
to 10). In IDLE: OCOUNT is at most the longest string (R28), DONE shows only with an outcome (R30). -/
def State.phaseOk (s : State) : Prop :=
  match s.phase with
  | .idle =>
    s.ocount.toNat ≤ s.cfg.ib + 1 + s.cfg.k ∧ (s.done = true → s.result ≠ .none) ∧
    (s.result ≠ .errSink → s.errcode = 0#32)
  | .resolve => s.flightOk ∧ s.resolveOk
  | .intdig => s.flightOk ∧ s.intdigOk
  | .fracdig => s.flightOk ∧ s.fracdigOk
  | .emitSign => s.flightOk ∧ s.emitOk ∧ s.pol = true ∧ s.ecur.toNat = s.istart.toNat ∧ s.ocount = 0#8
  | .emitInt =>
    s.flightOk ∧ s.emitOk ∧ s.istart.toNat + s.pol.toNat ≤ s.ecur.toNat ∧ s.ecur.toNat < s.cfg.ib ∧
    s.ocount.toNat = s.ecur.toNat - s.istart.toNat
  | .emitPoint => s.flightOk ∧ s.emitOk ∧ s.ocount.toNat = s.cfg.ib - s.istart.toNat
  | .emitFrac =>
    s.flightOk ∧ s.emitOk ∧ s.ecur.toNat < s.fcnt.toNat ∧
    s.ocount.toNat = s.cfg.ib - s.istart.toNat + 1 + s.ecur.toNat

/-- The invariant of FXD (10_state.md R37): what a safe state satisfies. -/
def State.Inv (s : State) : Prop := s.widthsFit ∧ s.buffersFit ∧ s.phaseOk

/-- The bytes of the command in flight that the sink has not taken yet: what is in the buffers from the cursor on, and
the digits the phases have still to extract. -/
def State.pending (s : State) : List Byte :=
  let intBytes := s.ibuf.slice s.istart.toNat (s.cfg.ib - s.istart.toNat)
  let fracBytes := s.fbuf.slice 0 s.fcnt.toNat
  match s.phase with
  | .idle => []
  | .resolve => format s.cfg s.raw.toNat s.fb.toNat s.sgn
  | .intdig =>
    signBytes s.pol ++ (intDigits s.irem.toNat).map digitByte ++ intBytes ++ [pointByte] ++
    (fracDigits s.cfg s.frem.toNat s.fb.toNat).map digitByte
  | .fracdig =>
    intBytes ++ [pointByte] ++ fracBytes ++
    (fracDigitsLoop s.cfg.width s.fb.toNat (s.cfg.k - s.fcnt.toNat) s.frem.toNat).map digitByte
  | .emitSign | .emitInt => s.ibuf.slice s.ecur.toNat (s.cfg.ib - s.ecur.toNat) ++ [pointByte] ++ fracBytes
  | .emitPoint => [pointByte] ++ fracBytes
  | .emitFrac => s.fbuf.slice s.ecur.toNat (s.fcnt.toNat - s.ecur.toNat)

/-- A command in flight is on the way to its own string: what is pending is FORMAT(RAW, FB, SGN) less the OCOUNT bytes
already taken (40_command.md R105, 44_emission.md R180). -/
def State.onTrack (s : State) : Prop :=
  s.phase ≠ .idle → s.pending = (format s.cfg s.raw.toNat s.fb.toNat s.sgn).drop s.ocount.toNat

/-- `n` steps. -/
def run : Nat → State → Host.Outcome State Fault Refusal
  | 0, s => .next s
  | n + 1, s =>
    match step s with
    | .next t => run n t
    | .fault r => .fault r
    | .refused r => .refused r

/-- The bytes the sink takes in `n` steps, in order (10_state.md R38). -/
def sends : Nat → State → List Byte
  | 0, _ => []
  | n + 1, s =>
    s.transferred ++
      match step s with
      | .next t => sends n t
      | _ => []

end Sys2Proof.Machine
end

