-- ==== Sys2Proof/Certificates/Slice0/Obligations.lean ====
section
/-! DEFINITION. The statements for the provers. What the spec says is written out here from the rules, not through the
model's own operations; the names under `Sys2Proof.Spec` are only abbreviations of that. -/

namespace Sys2Proof.Spec

open Sys2Proof.Machine

/-- `cmd_word[W-1:0]` (R71). -/
def rawField (wd : Width) (w : BitVec 39) : Nat := w.toNat % 2 ^ wd.bits

/-- `cmd_word[W+5:W]` (R72). -/
def fbitsField (wd : Width) (w : BitVec 39) : Nat := w.toNat / 2 ^ wd.bits % 64

/-- `cmd_word[W+6]` (R73). -/
def signedField (wd : Width) (w : BitVec 39) : Bool := w.toNat.testBit (wd.bits + 6)

/-- The registers after R101's pseudocode, everything written out: W decides only IB = D(W) + 1. -/
def accepted (s : State) (raw f : Nat) (signed : Bool) : State where
  cfg := s.cfg
  phase := .resolve
  raw := BitVec.ofNat 32 raw
  fb := BitVec.ofNat 6 f
  sgn := signed
  mag := 0#32
  pol := false
  irem := 0#32
  frem := 0#32
  ibuf := []
  istart := BitVec.ofNat 4 (s.cfg.width.digits + 1)
  fbuf := []
  fcnt := 0#7
  ecur := 0#7
  ocount := 0#8
  result := .none
  errcode := 0#32
  done := s.done
  script := s.script

/-- The registers after R103's pseudocode with R200's `complete(ERR_FBITS, 0)`. -/
def rejected (s : State) : State :=
  { s with ocount := 0#8, result := .errFbits, errcode := 0#32, done := true, phase := .idle }

/-- The registers after `complete(ERR_SINK, snk_code mod 2^EW)` (R181, R200). -/
def sinkFailed (s : State) : State :=
  { s with
    result := .errSink, errcode := BitVec.ofNat 32 (s.input.snkCode.toNat % 2 ^ s.cfg.ew)
    done := true, phase := .idle }

/-- R181: an error wins over an acceptance, which leads to `taken`; neither is a stall, which changes nothing. -/
def handshake (s taken : State) : State :=
  if s.input.snkErr then sinkFailed s else if s.input.snkReady then taken else s

/-- The two command variants of R73 with their W; no other instruction is one. -/
def variantOf : Instr → Option (Bool × Width)
  | .fmtU8 _ _ => some (false, .w8)
  | .fmtS8 _ _ => some (true, .w8)
  | .fmtU16 _ _ => some (false, .w16)
  | .fmtS16 _ _ => some (true, .w16)
  | .fmtU32 _ _ => some (false, .w32)
  | .fmtS32 _ _ => some (true, .w32)
  | _ => none

/-- A PHASE a step may lead to from another one when there is no reset (R3, R78, R101 to R103, R120, R140, R160, R181 to
R185, R200). -/
def successor (s : State) : Phase → Prop
  | .idle => s.phase = .idle ∨ s.outValid = true
  | .resolve => s.phase = .idle
  | .intdig => s.phase = .resolve ∨ s.phase = .intdig
  | .fracdig => s.phase = .intdig ∨ s.phase = .fracdig
  | .emitSign => (s.phase = .fracdig ∧ s.pol = true) ∨ s.phase = .emitSign
  | .emitInt => (s.phase = .fracdig ∧ s.pol = false) ∨ s.phase = .emitSign ∨ s.phase = .emitInt
  | .emitPoint => s.phase = .emitInt ∨ s.phase = .emitPoint
  | .emitFrac => s.phase = .emitPoint ∨ s.phase = .emitFrac

end Sys2Proof.Spec

open Sys2Proof Sys2Proof.Machine

/-! ### Encodings -/

/-- Decoding the word of a well-formed instruction gives the instruction back, for every family and every operand
(30_encoding.md sections 1 and 2). -/
def Obligations.DecodeEncodeGivesInstrBack : Prop := ∀ i : Instr, i.wf = true → decode (encode i) = .ok i

/-- Every word the decoder takes is the word of the well-formed instruction it gives: each word has one meaning. -/
def Obligations.DecodedWordIsInstrsOwnWord : Prop :=
  ∀ (c : CodeWord) (i : Instr), decode c = .ok i → i.wf = true ∧ encode i = c

/-- R70 to R73: what a command word of each W decodes to, field by field. -/
def Obligations.CommandWordFieldsDecode : Prop :=
  (∀ w : Nat, w < 2 ^ 15 →
    decode ⟨15, w⟩ = .ok (
      if w / 2 ^ 8 % 64 ≤ 8 then
        (if w.testBit 14 then .fmtS8 (BitVec.ofNat 8 (w % 2 ^ 8)) (BitVec.ofNat 6 (w / 2 ^ 8 % 64))
          else .fmtU8 (BitVec.ofNat 8 (w % 2 ^ 8)) (BitVec.ofNat 6 (w / 2 ^ 8 % 64)))
      else .illegalFbits8 (BitVec.ofNat 8 (w % 2 ^ 8)) (BitVec.ofNat 6 (w / 2 ^ 8 % 64)) (w.testBit 14))) ∧
  (∀ w : Nat, w < 2 ^ 23 →
    decode ⟨23, w⟩ = .ok (
      if w / 2 ^ 16 % 64 ≤ 16 then
        (if w.testBit 22 then .fmtS16 (BitVec.ofNat 16 (w % 2 ^ 16)) (BitVec.ofNat 6 (w / 2 ^ 16 % 64))
          else .fmtU16 (BitVec.ofNat 16 (w % 2 ^ 16)) (BitVec.ofNat 6 (w / 2 ^ 16 % 64)))
      else .illegalFbits16 (BitVec.ofNat 16 (w % 2 ^ 16)) (BitVec.ofNat 6 (w / 2 ^ 16 % 64)) (w.testBit 22))) ∧
  (∀ w : Nat, w < 2 ^ 39 →
    decode ⟨39, w⟩ = .ok (
      if w / 2 ^ 32 % 64 ≤ 32 then
        (if w.testBit 38 then .fmtS32 (BitVec.ofNat 32 (w % 2 ^ 32)) (BitVec.ofNat 6 (w / 2 ^ 32 % 64))
          else .fmtU32 (BitVec.ofNat 32 (w % 2 ^ 32)) (BitVec.ofNat 6 (w / 2 ^ 32 % 64)))
      else .illegalFbits32 (BitVec.ofNat 32 (w % 2 ^ 32)) (BitVec.ofNat 6 (w / 2 ^ 32 % 64)) (w.testBit 38)))

/-- R75's table (which the spec marks [derived]) decides the variant: a word is in a row exactly when it decodes to
the row's FMT variant of the row's W. -/
def Obligations.MatchRowsDecideVariant : Prop :=
  ∀ r ∈ matchRows, ∀ w : Nat, w < 2 ^ r.width.cw →
    (r.hits w = true ↔ ∃ i, decode ⟨r.width.cw, w⟩ = .ok i ∧ Spec.variantOf i = some (r.variant, r.width))

/-- Words written out from R70 and R78 decode to the instructions they stand for. -/
def Obligations.SampleWordsDecode : Prop :=
  decode ⟨15, 0b0_001000_11111111⟩ = .ok (.fmtU8 255#8 8#6) ∧
  decode ⟨15, 0b1_000000_10000000⟩ = .ok (.fmtS8 128#8 0#6) ∧
  decode ⟨15, 0b0_001001_00000000⟩ = .ok (.illegalFbits8 0#8 9#6 false) ∧
  decode ⟨23, 0b0_010000_1000000000000000⟩ = .ok (.fmtU16 32768#16 16#6) ∧
  decode ⟨23, 0b1_010000_1111111111111111⟩ = .ok (.fmtS16 65535#16 16#6) ∧
  decode ⟨23, 0b0_010001_0000000000000000⟩ = .ok (.illegalFbits16 0#16 17#6 false) ∧
  decode ⟨39, 0b0_100000_11111111111111111111111111111111⟩ = .ok (.fmtU32 4294967295#32 32#6) ∧
  decode ⟨39, 0b1_011111_10000000000000000000000000000000⟩ = .ok (.fmtS32 2147483648#32 31#6) ∧
  decode ⟨39, 0b1_111111_00000000000000000000000000000000⟩ = .ok (.illegalFbits32 0#32 63#6 true) ∧
  decode ⟨3, 0b011⟩ = .ok .phaseFracdig

/-- R78: the eight PHASE codes are all used, each names one phase and selects that phase's step rule. -/
def Obligations.PhaseCodesSelectTheirRules : Prop :=
  Phase.code .idle = 0#3 ∧ Phase.code .resolve = 1#3 ∧ Phase.code .intdig = 2#3 ∧ Phase.code .fracdig = 3#3 ∧
  Phase.code .emitSign = 4#3 ∧ Phase.code .emitInt = 5#3 ∧ Phase.code .emitPoint = 6#3 ∧
  Phase.code .emitFrac = 7#3 ∧
  (∀ p : Phase, Phase.ofCode p.code = p ∧ decode ⟨3, p.code.toNat⟩ = .ok p.instr) ∧
  ∀ c : BitVec 3, (Phase.ofCode c).code = c

/-- R77: the word an assembled command gives, the meaning of a negative literal of FMT.S, and the literals that do not
assemble. -/
def Obligations.AssembledCommandWord : Prop :=
  ∀ (wd : Width) (signed : Bool) (f : Nat),
    (∀ raw : Nat, raw < 2 ^ wd.bits → f ≤ 63 →
      assembleCommand wd signed raw f = some ⟨wd.bits + 7, signed.toNat * 2 ^ (wd.bits + 6) + f * 2 ^ wd.bits + raw⟩) ∧
    (∀ n : Nat, 1 ≤ n → n ≤ 2 ^ (wd.bits - 1) → f ≤ 63 →
      assembleCommand wd true (-(n : Int)) f =
        some ⟨wd.bits + 7, 2 ^ (wd.bits + 6) + f * 2 ^ wd.bits + (2 ^ wd.bits - n)⟩) ∧
    (∀ n : Nat, 1 ≤ n → assembleCommand wd false (-(n : Int)) f = none) ∧
    (∀ n : Nat, 2 ^ (wd.bits - 1) < n → assembleCommand wd signed (-(n : Int)) f = none) ∧
    (∀ raw : Int, 2 ^ wd.bits ≤ raw ∨ 63 < f → assembleCommand wd signed raw f = none)

/-- R5 and R4: W outside 8, 16, 32 or K outside 1 to 64 is refused (R5), and EW outside 1 to 32 too; every other triple
is a configuration with exactly these parameters. R5 names W and K only: that EW is refused is the model's reading of
R4's legal values (log entry 1). -/
def Obligations.IllegalParametersAreRefused : Prop :=
  ∀ w k ew : Nat,
    (¬((w = 8 ∨ w = 16 ∨ w = 32) ∧ 1 ≤ k ∧ k ≤ 64 ∧ 1 ≤ ew ∧ ew ≤ 32) → Config.ofParams w k ew = none) ∧
    ((w = 8 ∨ w = 16 ∨ w = 32) ∧ 1 ≤ k ∧ k ≤ 64 ∧ 1 ≤ ew ∧ ew ≤ 32 →
      ∃ c, Config.ofParams w k ew = some c ∧ c.w = w ∧ c.k = k ∧ c.ew = ew)

/-! ### Commands -/

/-- FMT.U and FMT.S of each W, taken in IDLE: the registers of R101's pseudocode, nothing else changed. -/
def Obligations.FmtCommandsAreAccepted : Prop :=
  ∀ s : State, s.phase = .idle →
    (s.cfg.width = .w8 → ∀ (raw : BitVec 8) (f : BitVec 6), f.toNat ≤ 8 →
      exec (.fmtU8 raw f) s = .next (Spec.accepted s raw.toNat f.toNat false) ∧
      exec (.fmtS8 raw f) s = .next (Spec.accepted s raw.toNat f.toNat true)) ∧
    (s.cfg.width = .w16 → ∀ (raw : BitVec 16) (f : BitVec 6), f.toNat ≤ 16 →
      exec (.fmtU16 raw f) s = .next (Spec.accepted s raw.toNat f.toNat false) ∧
      exec (.fmtS16 raw f) s = .next (Spec.accepted s raw.toNat f.toNat true)) ∧
    (s.cfg.width = .w32 → ∀ (raw : BitVec 32) (f : BitVec 6), f.toNat ≤ 32 →
      exec (.fmtU32 raw f) s = .next (Spec.accepted s raw.toNat f.toNat false) ∧
      exec (.fmtS32 raw f) s = .next (Spec.accepted s raw.toNat f.toNat true))

/-- ILLEGAL.FBITS of each W, taken in IDLE: the registers of R103's pseudocode, nothing else changed, whatever raw and S
are. -/
def Obligations.IllegalFbitsAreRejected : Prop :=
  ∀ s : State, s.phase = .idle →
    (s.cfg.width = .w8 → ∀ (raw : BitVec 8) (f : BitVec 6) (signed : Bool), 8 < f.toNat →
      exec (.illegalFbits8 raw f signed) s = .next (Spec.rejected s)) ∧
    (s.cfg.width = .w16 → ∀ (raw : BitVec 16) (f : BitVec 6) (signed : Bool), 16 < f.toNat →
      exec (.illegalFbits16 raw f signed) s = .next (Spec.rejected s)) ∧
    (s.cfg.width = .w32 → ∀ (raw : BitVec 32) (f : BitVec 6) (signed : Bool), 32 < f.toNat →
      exec (.illegalFbits32 raw f signed) s = .next (Spec.rejected s))

/-- R101, R102, R103 as the step in IDLE: what is on the command port decides, every other register keeps its value, and
DONE is 0 unless the command is rejected. -/
def Obligations.IdleStepTakesOfferedCommand : Prop :=
  ∀ s : State, s.phase = .idle → s.input.rst = false →
    (s.input.cmdValid = false → step s = .next { s with done := false, script := s.script.tail }) ∧
    (s.input.cmdValid = true → Spec.fbitsField s.cfg.width s.input.cmdWord ≤ s.cfg.w →
      step s = .next { Spec.accepted s (Spec.rawField s.cfg.width s.input.cmdWord)
          (Spec.fbitsField s.cfg.width s.input.cmdWord) (Spec.signedField s.cfg.width s.input.cmdWord) with
        done := false, script := s.script.tail }) ∧
    (s.input.cmdValid = true → s.cfg.w < Spec.fbitsField s.cfg.width s.input.cmdWord →
      step s = .next { Spec.rejected s with script := s.script.tail })

/-- PHASE.IDLE in IDLE: without a command nothing changes (R102); with one it does what R101 or R103 says. -/
def Obligations.IdlePhaseResult : Prop :=
  ∀ s : State, s.phase = .idle →
    (s.input.cmdValid = false → exec .phaseIdle s = .next s) ∧
    (s.input.cmdValid = true → Spec.fbitsField s.cfg.width s.input.cmdWord ≤ s.cfg.w →
      exec .phaseIdle s = .next (Spec.accepted s (Spec.rawField s.cfg.width s.input.cmdWord)
        (Spec.fbitsField s.cfg.width s.input.cmdWord) (Spec.signedField s.cfg.width s.input.cmdWord))) ∧
    (s.input.cmdValid = true → s.cfg.w < Spec.fbitsField s.cfg.width s.input.cmdWord →
      exec .phaseIdle s = .next (Spec.rejected s))

/-- PHASE.IDLE with a command on the port is that command, as the decoder reads it. -/
def Obligations.IdlePhaseIsDecodedCommand : Prop :=
  ∀ s : State, s.phase = .idle → s.input.cmdValid = true →
    exec .phaseIdle s = exec (decodeCommand s.cfg.width s.input.cmdWord) s

/-- R104: in every state with PHASE ≠ IDLE, cmd_ready is 0 and the step does not depend on cmd_valid or cmd_word: a
command offered then is not taken, not queued and not an error. -/
def Obligations.BusyStepIgnoresCommandPort : Prop :=
  ∀ s : State, s.phase ≠ .idle → s.cmdReady = false ∧
    ∀ (valid : Bool) (word : BitVec 39),
      step (s.withInput { s.input with cmdValid := valid, cmdWord := word }) = step s

/-- The model's choice of log entry 6: a command's own meaning, asked for in a busy state, has no effect. R104 is its
reason; no step asks for it. -/
def Obligations.BusyCommandIsTurnedAway : Prop :=
  ∀ s : State, s.phase ≠ .idle →
    (s.cfg.width = .w8 → ∀ (raw : BitVec 8) (f : BitVec 6) (signed : Bool),
      exec (.fmtU8 raw f) s = .next s ∧ exec (.fmtS8 raw f) s = .next s ∧
      exec (.illegalFbits8 raw f signed) s = .next s) ∧
    (s.cfg.width = .w16 → ∀ (raw : BitVec 16) (f : BitVec 6) (signed : Bool),
      exec (.fmtU16 raw f) s = .next s ∧ exec (.fmtS16 raw f) s = .next s ∧
      exec (.illegalFbits16 raw f signed) s = .next s) ∧
    (s.cfg.width = .w32 → ∀ (raw : BitVec 32) (f : BitVec 6) (signed : Bool),
      exec (.fmtU32 raw f) s = .next s ∧ exec (.fmtS32 raw f) s = .next s ∧
      exec (.illegalFbits32 raw f signed) s = .next s)

/-- The model's choice of log entry 7: a command of another W than the instance's is refused by name. No step meets
one. -/
def Obligations.OtherWidthCommandIsRefused : Prop :=
  ∀ s : State,
    (s.cfg.width ≠ .w8 → ∀ (raw : BitVec 8) (f : BitVec 6) (signed : Bool),
      exec (.fmtU8 raw f) s = .refused (.otherWidth .w8) ∧ exec (.fmtS8 raw f) s = .refused (.otherWidth .w8) ∧
      exec (.illegalFbits8 raw f signed) s = .refused (.otherWidth .w8)) ∧
    (s.cfg.width ≠ .w16 → ∀ (raw : BitVec 16) (f : BitVec 6) (signed : Bool),
      exec (.fmtU16 raw f) s = .refused (.otherWidth .w16) ∧ exec (.fmtS16 raw f) s = .refused (.otherWidth .w16) ∧
      exec (.illegalFbits16 raw f signed) s = .refused (.otherWidth .w16)) ∧
    (s.cfg.width ≠ .w32 → ∀ (raw : BitVec 32) (f : BitVec 6) (signed : Bool),
      exec (.fmtU32 raw f) s = .refused (.otherWidth .w32) ∧ exec (.fmtS32 raw f) s = .refused (.otherWidth .w32) ∧
      exec (.illegalFbits32 raw f signed) s = .refused (.otherWidth .w32))

/-! ### The digit phases -/

/-- R120 and R121: RESOLVE writes MAG, POL, IREM, FREM and PHASE as ResolveFn says, case by case, and nothing else. -/
def Obligations.ResolveResult : Prop :=
  ∀ (s : State) (W F raw : Nat), W = s.cfg.w → F = s.fb.toNat → raw = s.raw.toNat → raw < 2 ^ W → F ≤ W →
    ((s.sgn = false ∨ raw < 2 ^ (W - 1)) →
      exec .phaseResolve s = .next { s with
        mag := s.raw, pol := false, irem := BitVec.ofNat 32 (raw >>> F)
        frem := BitVec.ofNat 32 (raw &&& (2 ^ F - 1)), phase := .intdig }) ∧
    (s.sgn = true → raw = 2 ^ (W - 1) → F < W →
      exec .phaseResolve s = .next { s with
        mag := s.raw, pol := true, irem := BitVec.ofNat 32 (2 ^ (W - F - 1)), frem := 0#32, phase := .intdig }) ∧
    (s.sgn = true → raw = 2 ^ (W - 1) → F = W →
      exec .phaseResolve s = .next { s with
        mag := s.raw, pol := true, irem := 0#32, frem := s.raw, phase := .intdig }) ∧
    (s.sgn = true → 2 ^ (W - 1) < raw →
      exec .phaseResolve s = .next { s with
        mag := BitVec.ofNat 32 (2 ^ W - raw), pol := true, irem := BitVec.ofNat 32 ((2 ^ W - raw) >>> F)
        frem := BitVec.ofNat 32 ((2 ^ W - raw) &&& (2 ^ F - 1)), phase := .intdig })

/-- R140: one INTDIG step. The digit goes to IBUF[ISTART - 1]; with the last one the sign, if negative, goes just below.
Every other byte of IBUF and every other register keeps its value. -/
def Obligations.IntdigResult : Prop :=
  ∀ (s : State) (q p : Nat), q = s.irem.toNat / 10 → p = s.istart.toNat → 1 ≤ p → p ≤ s.cfg.ib →
    (q = 0 → s.pol = true → 2 ≤ p) →
    ∃ t, exec .phaseIntdig s = .next t ∧
      t.irem.toNat = q ∧
      t.ibuf.get (p - 1) = BitVec.ofNat 8 (0x30 + s.irem.toNat % 10) ∧
      (q = 0 ∧ s.pol = true →
        t.istart.toNat = p - 2 ∧ t.ibuf.get (p - 2) = 0x2D#8 ∧
        ∀ a, a ≠ p - 1 → a ≠ p - 2 → t.ibuf.get a = s.ibuf.get a) ∧
      (¬(q = 0 ∧ s.pol = true) → t.istart.toNat = p - 1 ∧ ∀ a, a ≠ p - 1 → t.ibuf.get a = s.ibuf.get a) ∧
      t.phase = (if q = 0 then .fracdig else s.phase) ∧
      t = { s with irem := t.irem, ibuf := t.ibuf, istart := t.istart, phase := t.phase }

/-- R160 with R161 and R162: one FRACDIG step. The digit comes from the working copy, the remainder from FREM itself.
Every other byte of FBUF and every other register keeps its value. -/
def Obligations.FracdigResult : Prop :=
  ∀ (s : State) (W F r n wv wf f2 : Nat),
    W = s.cfg.w → F = s.fb.toNat → r = s.frem.toNat → n = s.fcnt.toNat → n < s.cfg.k →
    (wv, wf) = (if W < F + 4 then (r >>> 4, F - 4) else (r, F)) → f2 = (r * 10 % 2 ^ W) &&& (2 ^ F - 1) →
    ∃ t, exec .phaseFracdig s = .next t ∧
      t.fbuf.get n = BitVec.ofNat 8 (0x30 + ((wv * 10 % 2 ^ W) >>> wf) % 10) ∧
      (∀ a, a ≠ n → t.fbuf.get a = s.fbuf.get a) ∧
      t.fcnt.toNat = n + 1 ∧ t.frem.toNat = f2 ∧
      (f2 = 0 ∨ n + 1 = s.cfg.k →
        t.ecur.toNat = s.istart.toNat ∧ t.phase = if s.pol then .emitSign else .emitInt) ∧
      (¬(f2 = 0 ∨ n + 1 = s.cfg.k) → t.ecur = s.ecur ∧ t.phase = s.phase) ∧
      t = { s with fbuf := t.fbuf, fcnt := t.fcnt, frem := t.frem, ecur := t.ecur, phase := t.phase }

/-- R125, which the spec marks [derived]: the special case and the negation are one wrapping negation read unsigned. -/
def Obligations.ResolveIsOneNegator : Prop :=
  ∀ (wd : Width) (raw F : Nat) (signed : Bool), raw < 2 ^ wd.bits → F ≤ wd.bits →
    resolveFn wd raw F signed =
      let neg := signed && raw.testBit (wd.bits - 1)
      let n := if neg then (2 ^ wd.bits - raw) % 2 ^ wd.bits else raw
      ⟨n, neg, n / 2 ^ F, n % 2 ^ F⟩

/-- R127, [derived] in the spec: sign resolution loses nothing; the value denoted (R11) is (-1)^pol (ip + fp / 2^F). -/
def Obligations.ResolveKeepsTheValue : Prop :=
  ∀ (wd : Width) (raw F : Nat) (signed : Bool), raw < 2 ^ wd.bits → F ≤ wd.bits →
    ((if signed then (BitVec.ofNat wd.bits raw).toInt else (raw : Int) : Int) : ℚ) / 2 ^ F =
      (-1) ^ (resolveFn wd raw F signed).pol.toNat *
        ((resolveFn wd raw F signed).ip + (resolveFn wd raw F signed).fp / 2 ^ F)

/-- R126, [derived] in the spec: the ranges of MAG, POL, IREM and FREM after RESOLVE. -/
def Obligations.ResolveRanges : Prop :=
  ∀ (wd : Width) (raw F : Nat) (signed : Bool) (r : Resolved), raw < 2 ^ wd.bits → F ≤ wd.bits →
    r = resolveFn wd raw F signed →
      r.mag < 2 ^ wd.bits ∧ r.fp ≤ 2 ^ F - 1 ∧
      (r.pol = true → 1 ≤ r.mag ∧ r.mag ≤ 2 ^ (wd.bits - 1) ∧ r.ip ≤ (2 ^ (wd.bits - 1)) >>> F) ∧
      (r.pol = false → r.ip ≤ (2 ^ wd.bits - 1) >>> F) ∧
      (r.pol = true ↔ signed = true ∧ 2 ^ (wd.bits - 1) ≤ raw)

/-- R141 and R142 (the latter [derived] in the spec): the digits INTDIG makes are the decimal numeral without leading
zeros, [0] for 0, and at most D(W). -/
def Obligations.IntDigitsAreTheNumeral : Prop :=
  ∀ (wd : Width) (x : Nat), x < 2 ^ wd.bits →
    intDigits x = (if x = 0 then [0] else (Nat.digits 10 x).reverse) ∧
    1 ≤ (intDigits x).length ∧ (intDigits x).length ≤ wd.digits

/-- R163's [derived] clause: neither `mod` of the digit changes anything; the digit is floor(10 wv / 2^wf), at most 9.
-/
def Obligations.FracDigitNeverWraps : Prop :=
  ∀ (wd : Width) (r F : Nat), F ≤ wd.bits → r ≤ 2 ^ F - 1 →
    fracDigit wd r F = 10 * (workCopy wd r F).1 / 2 ^ (workCopy wd r F).2 ∧ fracDigit wd r F ≤ 9

/-- R164's [derived] clause: the remainder update is exact, (10 r) mod 2^F, for every F. -/
def Obligations.RemainderUpdateIsExact : Prop :=
  ∀ (wd : Width) (r F : Nat), F ≤ wd.bits → nextRemainder wd r F = 10 * r % 2 ^ F

/-- R168 items 1 and 2, [derived] in the spec: a digit is the exact one without the pre-shift, and at most c(F) = 1 +
floor(118 / 2^F) below it with the pre-shift, never above. -/
def Obligations.DigitDeficitBound : Prop :=
  ∀ (wd : Width) (r F : Nat), F ≤ wd.bits → r < 2 ^ F →
    (F + 4 ≤ wd.bits → fracDigit wd r F = 10 * r / 2 ^ F) ∧
    (wd.bits < F + 4 →
      fracDigit wd r F ≤ 10 * r / 2 ^ F ∧ 10 * r / 2 ^ F ≤ fracDigit wd r F + 1 + 118 / 2 ^ F)

/-- R165's [derived] clause: how many fractional digits a command has. -/
def Obligations.FracDigitCount : Prop :=
  ∀ (c : Config) (fp F : Nat), F ≤ c.w → fp < 2 ^ F →
    (fracDigits c fp F).length = if fp = 0 then 1 else min c.k (F - padicValNat 2 fp)

/-- R168 item 1, [derived] in the spec, §8's truncation property: without the pre-shift the fractional digits are the
truncation of fp / 2^F to their number. -/
def Obligations.UnshiftedDigitsTruncate : Prop :=
  ∀ (c : Config) (fp F : Nat), F + 4 ≤ c.w → fp < 2 ^ F →
    Nat.ofDigits 10 (fracDigits c fp F).reverse = fp * 10 ^ (fracDigits c fp F).length / 2 ^ F

/-- R83, [derived] in the spec: the form of the string: '-' iff negative, 1 to D(W) digits with no leading zero but a
single 0, '.', 1 to K digits. -/
def Obligations.FormatShape : Prop :=
  ∀ (c : Config) (raw F : Nat) (signed : Bool), raw < 2 ^ c.w → F ≤ c.w →
    ∃ idigits fdigits : List Nat,
      format c raw F signed =
        (if (resolveFn c.width raw F signed).pol then [0x2D#8] else []) ++
          idigits.map (fun d => BitVec.ofNat 8 (0x30 + d)) ++ [0x2E#8] ++
          fdigits.map (fun d => BitVec.ofNat 8 (0x30 + d)) ∧
      (∀ d ∈ idigits, d ≤ 9) ∧ (∀ d ∈ fdigits, d ≤ 9) ∧
      1 ≤ idigits.length ∧ idigits.length ≤ c.width.digits ∧ 1 ≤ fdigits.length ∧ fdigits.length ≤ c.k ∧
      (idigits.head? = some 0 → idigits = [0])

/-- The three examples of R100 and the document's §8 (`Config.standard` is W = 16, K = 6): "0.0", "0.5", "0.999984". -/
def Obligations.SourceExamplesFormat : Prop :=
  format Config.standard 0 16 false = [0x30#8, 0x2E#8, 0x30#8] ∧
  format Config.standard 32768 16 false = [0x30#8, 0x2E#8, 0x35#8] ∧
  format Config.standard 65535 16 false =
    [0x30#8, 0x2E#8, 0x39#8, 0x39#8, 0x39#8, 0x39#8, 0x38#8, 0x34#8]

/-! ### Emission -/

/-- R182 with R181: one EMIT_SIGN step, whatever the sink answers. -/
def Obligations.EmitSignResult : Prop :=
  ∀ s : State, s.ecur.toNat < s.cfg.ib → s.ocount.toNat < 255 →
    exec .phaseEmitSign s =
      .next (Spec.handshake s { s with ocount := s.ocount + 1#8, ecur := s.ecur + 1#7, phase := .emitInt })

/-- R183 with R181: one EMIT_INT step; after the last digit, EMIT_POINT. -/
def Obligations.EmitIntResult : Prop :=
  ∀ s : State, s.ecur.toNat < s.cfg.ib → s.ocount.toNat < 255 →
    exec .phaseEmitInt s =
      .next (Spec.handshake s { s with
        ocount := s.ocount + 1#8, ecur := s.ecur + 1#7
        phase := if s.ecur.toNat + 1 = s.cfg.ib then .emitPoint else s.phase })

/-- R184 with R181: one EMIT_POINT step. -/
def Obligations.EmitPointResult : Prop :=
  ∀ s : State, s.ocount.toNat < 255 →
    exec .phaseEmitPoint s =
      .next (Spec.handshake s { s with ocount := s.ocount + 1#8, ecur := 0#7, phase := .emitFrac })

/-- R185 with R181: one EMIT_FRAC step; with the last digit the command completes OK. -/
def Obligations.EmitFracResult : Prop :=
  ∀ s : State, s.ecur.toNat < s.cfg.k → s.ocount.toNat < 255 →
    exec .phaseEmitFrac s =
      .next (Spec.handshake s
        (if s.ecur.toNat + 1 = s.fcnt.toNat then
          { s with
            ocount := s.ocount + 1#8, ecur := s.ecur + 1#7
            result := .ok, errcode := 0#32, done := true, phase := .idle }
        else { s with ocount := s.ocount + 1#8, ecur := s.ecur + 1#7 }))

/-- 93_implementation_defined.md item 16: an index outside its buffer faults, at both ends of the range. That an
emission phase so faults whatever the sink answers, and INTDIG and FRACDIG before anything is written, is the model's
choice of log entry 4. That counting a byte past 255 faults is the model's choice of log entry 5. -/
def Obligations.IndexOutsideBufferFaults : Prop :=
  ∀ s : State,
    (s.cfg.ib ≤ s.ecur.toNat →
      exec .phaseEmitSign s = .fault .ibufIndex ∧ exec .phaseEmitInt s = .fault .ibufIndex) ∧
    (s.cfg.k ≤ s.ecur.toNat → exec .phaseEmitFrac s = .fault .fbufIndex) ∧
    (s.istart.toNat = 0 ∨ s.cfg.ib < s.istart.toNat → exec .phaseIntdig s = .fault .ibufIndex) ∧
    (s.istart.toNat = 1 → s.irem.toNat < 10 → s.pol = true → exec .phaseIntdig s = .fault .ibufIndex) ∧
    (s.cfg.k ≤ s.fcnt.toNat → exec .phaseFracdig s = .fault .fbufIndex) ∧
    (s.ocount.toNat = 255 → s.input.snkErr = false → s.input.snkReady = true →
      exec .phaseEmitPoint s = .fault .ocountRange ∧
      (s.ecur.toNat < s.cfg.ib →
        exec .phaseEmitSign s = .fault .ocountRange ∧ exec .phaseEmitInt s = .fault .ocountRange) ∧
      (s.ecur.toNat < s.cfg.k → exec .phaseEmitFrac s = .fault .ocountRange))

/-- R81 and R186: the byte port and the segment ports, phase by phase, in every state whose cursor lies inside the
buffer it indexes (outside it, `IndexOutsideBufferFaults` says what happens); and R32's cmd_ready, 1 in IDLE and in no
other phase, with busy its opposite. -/
def Obligations.OutputPortsFollowState : Prop :=
  ∀ s : State,
    (s.phase = .emitSign → s.outValid = true ∧ s.outSeg = 0#2 ∧ s.outSegLast = true ∧ s.outEnd = false ∧
      (s.ecur.toNat < s.cfg.ib → s.outByte = .ok (s.ibuf.get s.ecur.toNat))) ∧
    (s.phase = .emitInt → s.outValid = true ∧ s.outSeg = 1#2 ∧
      (s.outSegLast = true ↔ s.ecur.toNat + 1 = s.cfg.ib) ∧ s.outEnd = false ∧
      (s.ecur.toNat < s.cfg.ib → s.outByte = .ok (s.ibuf.get s.ecur.toNat))) ∧
    (s.phase = .emitPoint → s.outValid = true ∧ s.outSeg = 2#2 ∧ s.outSegLast = true ∧ s.outEnd = false ∧
      s.outByte = .ok 0x2E#8) ∧
    (s.phase = .emitFrac → s.outValid = true ∧ s.outSeg = 3#2 ∧
      (s.outSegLast = true ↔ s.ecur.toNat + 1 = s.fcnt.toNat) ∧
      (s.outEnd = true ↔ s.ecur.toNat + 1 = s.fcnt.toNat) ∧
      (s.ecur.toNat < s.cfg.k → s.outByte = .ok (s.fbuf.get s.ecur.toNat))) ∧
    (s.phase = .idle ∨ s.phase = .resolve ∨ s.phase = .intdig ∨ s.phase = .fracdig →
      s.outValid = false ∧ s.outSeg = 0#2 ∧ s.outSegLast = false ∧ s.outEnd = false ∧ s.outByte = .ok 0x00#8) ∧
    (s.outValid = true → s.outSeg.toNat = s.phase.code.toNat - 4) ∧
    (s.cmdReady = true ↔ s.phase = .idle) ∧ (s.busy = true ↔ s.phase ≠ .idle)

/-- R82, [derived] in the spec: the bytes on out_byte, by segment, in every safe state that offers one. -/
def Obligations.OfferedByteIsText : Prop :=
  ∀ s : State, s.Inv → s.outValid = true →
    ∃ b : Byte, s.outByte = .ok b ∧
      (s.outSeg = 0#2 → b = 0x2D#8) ∧
      (s.outSeg = 1#2 ∨ s.outSeg = 3#2 → ∃ d ≤ 9, b = BitVec.ofNat 8 (0x30 + d)) ∧
      (s.outSeg = 2#2 → b = 0x2E#8)

/-- R186 and R187 (the latter [derived] in the spec): when a byte is taken, out_seg_last says whether its segment ends
there, and out_end whether the string does. -/
def Obligations.SegmentMarkersMarkTheEnds : Prop :=
  ∀ s t : State, step s = .next t → s.transferred ≠ [] →
    (s.outSegLast = true ↔ t.phase ≠ s.phase) ∧ (s.outEnd = true ↔ t.phase = .idle)

/-- R236 and R235's [derived] clause: while the sink stalls, for any number of steps, nothing changes but the input
samples (and DONE, already 0), so out_valid, out_byte and the segment ports stay as they are. -/
def Obligations.StallHoldsEverything : Prop :=
  ∀ (n : Nat) (s : State) (stalls rest : List Inputs) (b : Byte),
    s.outValid = true → s.outByte = .ok b → s.done = false → s.script = stalls ++ rest → stalls.length = n →
    (∀ i ∈ stalls, i.rst = false ∧ i.snkErr = false ∧ i.snkReady = false) →
      run n s = .next { s with script := rest } ∧
      ({ s with script := rest } : State).outValid = true ∧ ({ s with script := rest } : State).outByte = .ok b ∧
      ({ s with script := rest } : State).outSeg = s.outSeg ∧
      ({ s with script := rest } : State).outSegLast = s.outSegLast ∧
      ({ s with script := rest } : State).outEnd = s.outEnd

/-! ### The step, reset and the status -/

/-- A step without reset clears DONE and runs the decoded instruction: the command on the port when PHASE = IDLE and
cmd_valid = 1, else the rule of the PHASE code; then the next step takes the next sample (log entry 2). -/
def Obligations.StepRunsDecodedInstruction : Prop :=
  ∀ (s : State) (i : Instr), s.input.rst = false → i.wf = true →
    (s.phase = .idle ∧ s.input.cmdValid = true →
      decode ⟨s.cfg.width.cw, s.input.cmdWord.toNat % 2 ^ s.cfg.width.cw⟩ = .ok i →
        step s = afterNext State.nextSample (exec i s.clearDone)) ∧
    (¬(s.phase = .idle ∧ s.input.cmdValid = true) → decode ⟨3, s.phase.code.toNat⟩ = .ok i →
        step s = afterNext State.nextSample (exec i s.clearDone))

/-- R230 and R36: a step with rst = 1 leads from every state, whatever every other input is, to the same registers, in
IDLE with cmd_ready = 1, busy = 0 and out_valid = 0. -/
def Obligations.ResetStepResetsEverything : Prop :=
  ∀ s : State, s.input.rst = true →
    ∃ t, step s = .next t ∧
      t = { cfg := s.cfg, phase := .idle, raw := 0#32, fb := 0#6, sgn := false, mag := 0#32, pol := false
            irem := 0#32, frem := 0#32, ibuf := [], istart := 0#4, fbuf := [], fcnt := 0#7, ecur := 0#7
            ocount := 0#8, result := .none, errcode := 0#32, done := false, script := s.script.tail } ∧
      (∀ i, t.ibuf.get i = 0x00#8 ∧ t.fbuf.get i = 0x00#8) ∧
      t.cmdReady = true ∧ t.busy = false ∧ t.outValid = false

/-- The model's reset state is a state that a reset step leaves (R36): every register at R20's reset value. W = 16 and
no inputs ahead are the model's choice (log entries 1 and 2); K = 6 and EW = 8 are R4's defaults. -/
def Obligations.ResetStateRegisters : Prop :=
  State.reset.phase = .idle ∧ State.reset.raw = 0#32 ∧ State.reset.fb = 0#6 ∧ State.reset.sgn = false ∧
  State.reset.mag = 0#32 ∧ State.reset.pol = false ∧ State.reset.irem = 0#32 ∧ State.reset.frem = 0#32 ∧
  State.reset.istart = 0#4 ∧ State.reset.fcnt = 0#7 ∧ State.reset.ecur = 0#7 ∧ State.reset.ocount = 0#8 ∧
  State.reset.result = .none ∧ State.reset.errcode = 0#32 ∧ State.reset.done = false ∧
  (∀ i, State.reset.ibuf.get i = 0x00#8) ∧ (∀ i, State.reset.fbuf.get i = 0x00#8) ∧
  State.reset.cmdReady = true ∧ State.reset.busy = false ∧ State.reset.outValid = false ∧
  State.reset.cfg = ⟨.w16, 6, 8, by decide, by decide⟩ ∧ State.reset.script = []

/-- R79 and R80: the fields of the status word, bit by bit, and the four RESULT codes it shows. -/
def Obligations.StatusWordFields : Prop :=
  (ResultCode.code .none = 0#2 ∧ ResultCode.code .ok = 1#2 ∧ ResultCode.code .errFbits = 2#2 ∧
    ResultCode.code .errSink = 3#2) ∧
  ∀ s : State, s.errcode.toNat < 2 ^ s.cfg.ew →
    s.status.getLsbD 0 = decide (s.phase ≠ .idle) ∧ s.status.getLsbD 1 = s.done ∧
    s.status.extractLsb' 2 2 = s.result.code ∧ s.status.extractLsb' 4 4 = 0#4 ∧
    s.status.extractLsb' 8 8 = s.ocount ∧ s.status.toNat >>> 16 = s.errcode.toNat

/-- R30: DONE is 1 in exactly the state that follows a completion step: a rejection, a sink failure, or the acceptance
of the last digit. -/
def Obligations.DoneMarksCompletionSteps : Prop :=
  ∀ s t : State, step s = .next t →
    (t.done = true ↔
      s.input.rst = false ∧
      ((s.phase = .idle ∧ s.input.cmdValid = true ∧ s.cfg.w < Spec.fbitsField s.cfg.width s.input.cmdWord) ∨
       (s.outValid = true ∧ s.input.snkErr = true) ∨
       (s.phase = .emitFrac ∧ s.input.snkErr = false ∧ s.input.snkReady = true ∧
        s.ecur.toNat + 1 = s.fcnt.toNat)))

/-- R22: RAW, FB and SGN hold their values until the next acceptance of a legal command or reset; that acceptance leaves
FB ≤ W. -/
def Obligations.OperandLatchesHold : Prop :=
  ∀ s t : State, step s = .next t → s.input.rst = false →
    (¬(s.phase = .idle ∧ s.input.cmdValid = true ∧ Spec.fbitsField s.cfg.width s.input.cmdWord ≤ s.cfg.w) →
      t.raw = s.raw ∧ t.fb = s.fb ∧ t.sgn = s.sgn) ∧
    (s.phase = .idle → s.input.cmdValid = true → Spec.fbitsField s.cfg.width s.input.cmdWord ≤ s.cfg.w →
      t.raw.toNat = Spec.rawField s.cfg.width s.input.cmdWord ∧
      t.fb.toNat = Spec.fbitsField s.cfg.width s.input.cmdWord ∧
      t.sgn = Spec.signedField s.cfg.width s.input.cmdWord ∧ t.fb.toNat ≤ s.cfg.w)

/-- R51: which steps write which bytes of the buffers. -/
def Obligations.BufferWritesAreTheRules : Prop :=
  ∀ s t : State, step s = .next t → s.input.rst = false →
    ((s.phase = .idle ∧ s.input.cmdValid = true ∧ Spec.fbitsField s.cfg.width s.input.cmdWord ≤ s.cfg.w) →
      ∀ a, t.ibuf.get a = 0x00#8 ∧ t.fbuf.get a = 0x00#8) ∧
    (¬(s.phase = .idle ∧ s.input.cmdValid = true ∧ Spec.fbitsField s.cfg.width s.input.cmdWord ≤ s.cfg.w) →
      (s.phase ≠ .intdig → t.ibuf = s.ibuf) ∧ (s.phase ≠ .fracdig → t.fbuf = s.fbuf)) ∧
    (s.phase = .intdig → ∀ a, a + 1 ≠ s.istart.toNat →
      ¬(s.pol = true ∧ s.irem.toNat < 10 ∧ a + 2 = s.istart.toNat) → t.ibuf.get a = s.ibuf.get a) ∧
    (s.phase = .fracdig → ∀ a, a ≠ s.fcnt.toNat → t.fbuf.get a = s.fbuf.get a)

/-- R3: the phases run strictly in order; the only ways back are to IDLE, from IDLE and from an emission phase. -/
def Obligations.PhasesRunInOrder : Prop :=
  ∀ s t : State, step s = .next t → s.input.rst = false → Spec.successor s t.phase

/-- R28: OCOUNT is 0 after every acceptance, rejected or not, goes up by one with each byte accepted and else keeps its
value; in a safe state it is at most 1 + D(W) + 1 + K, at most 76. -/
def Obligations.OcountCountsAcceptedBytes : Prop :=
  (∀ s t : State, step s = .next t → s.input.rst = false →
    (s.phase = .idle → s.input.cmdValid = true → t.ocount = 0#8) ∧
    (¬(s.phase = .idle ∧ s.input.cmdValid = true) → t.ocount.toNat = s.ocount.toNat + s.transferred.length)) ∧
  ∀ s : State, s.Inv → s.ocount.toNat ≤ 1 + s.cfg.width.digits + 1 + s.cfg.k ∧ s.ocount.toNat ≤ 76

/-- R33: an input has no effect in a step where its "read when" condition is false. -/
def Obligations.UnreadInputsHaveNoEffect : Prop :=
  ∀ (s : State) (i j : Inputs), i.rst = j.rst →
    (i.rst = false → s.phase = .idle →
      i.cmdValid = j.cmdValid ∧
      (i.cmdValid = true → i.cmdWord.toNat % 2 ^ s.cfg.width.cw = j.cmdWord.toNat % 2 ^ s.cfg.width.cw)) →
    (i.rst = false → s.outValid = true →
      i.snkReady = j.snkReady ∧ i.snkErr = j.snkErr ∧
      (i.snkErr = true → i.snkCode.toNat % 2 ^ s.cfg.ew = j.snkCode.toNat % 2 ^ s.cfg.ew)) →
    step (s.withInput i) = step (s.withInput j)

/-- R20: the parameters are no state, and the ports are sampled afresh (log entries 1 and 2): a step keeps the first and
takes one sample of the second. -/
def Obligations.StepKeepsParameters : Prop :=
  ∀ s t : State, step s = .next t → t.cfg = s.cfg ∧ t.script = s.script.tail

/-! ### The invariant, and commands from end to end -/

/-- The reset state of every configuration, whatever inputs follow, satisfies the invariant. -/
def Obligations.ResetSatisfiesInv : Prop := ∀ (c : Config) (l : List Inputs), (State.resetOf c l).Inv

/-- R37, [derived] in the spec: every step keeps the invariant, from every state that has it. -/
def Obligations.StepKeepsInv : Prop := ∀ s t : State, s.Inv → step s = .next t → t.Inv

/-- R202 and R37, [derived] in the spec: no step from a safe state faults or is refused, whatever the inputs. -/
def Obligations.SafeStateStepsOn : Prop := ∀ s : State, s.Inv → ∃ t, step s = .next t

/-- R105 ([derived] in the spec) and R180: every step keeps a command on track: what is pending is its FORMAT string
less the bytes taken. -/
def Obligations.StepKeepsOnTrack : Prop := ∀ s t : State, s.Inv → s.onTrack → step s = .next t → t.onTrack

/-- R180: the byte offered is the next one of FORMAT(RAW, FB, SGN), and out_end marks the last. -/
def Obligations.OfferedByteIsNextOfFormat : Prop :=
  ∀ s : State, s.Inv → s.onTrack → s.outValid = true →
    ∃ b : Byte, s.outByte = .ok b ∧ (format s.cfg s.raw.toNat s.fb.toNat s.sgn)[s.ocount.toNat]? = some b ∧
      (s.outEnd = true ↔ s.ocount.toNat + 1 = (format s.cfg s.raw.toNat s.fb.toNat s.sgn).length)

/-- R105 items 1 and 2, [derived] in the spec: a legal command offered in IDLE, in any state, with a sink that never
fails, completes OK with the bytes of FORMAT sent in order. `pre` are the samples of the digit phases, `acc` those of
the emission phases up to the last byte, stalls among them, `final` the acceptance of the last byte. -/
def Obligations.CommandSendsItsFormat : Prop :=
  ∀ (s : State) (offer final : Inputs) (pre acc rest : List Inputs) (raw F : Nat) (S : Bool) (r : Resolved),
    s.phase = .idle → s.script = offer :: (pre ++ acc ++ final :: rest) →
    offer.rst = false → offer.cmdValid = true →
    raw = Spec.rawField s.cfg.width offer.cmdWord → F = Spec.fbitsField s.cfg.width offer.cmdWord →
    S = Spec.signedField s.cfg.width offer.cmdWord → F ≤ s.cfg.w → r = resolveFn s.cfg.width raw F S →
    pre.length = 1 + (intDigits r.ip).length + (fracDigits s.cfg r.fp F).length →
    (∀ i ∈ pre, i.rst = false) → (∀ i ∈ acc, i.rst = false ∧ i.snkErr = false) →
    (acc.filter fun i => i.snkReady).length + 1 = (format s.cfg raw F S).length →
    final.rst = false → final.snkErr = false → final.snkReady = true →
      ∃ t, run (1 + pre.length + acc.length + 1) s = .next t ∧
        t.phase = .idle ∧ t.done = true ∧ t.result = .ok ∧ t.errcode = 0#32 ∧
        t.ocount.toNat = (format s.cfg raw F S).length ∧
        sends (1 + pre.length + acc.length + 1) s = format s.cfg raw F S

/-- R105 item 3 ([derived] in the spec) and R203: when the sink fails after j bytes, the command completes in that
step with ERR_SINK, the sink's code and OCOUNT = j, and the bytes sent are the first j of FORMAT. -/
def Obligations.FailedSinkGetsPrefix : Prop :=
  ∀ (s : State) (offer fail : Inputs) (pre acc rest : List Inputs) (raw F j : Nat) (S : Bool) (r : Resolved),
    s.phase = .idle → s.script = offer :: (pre ++ acc ++ fail :: rest) →
    offer.rst = false → offer.cmdValid = true →
    raw = Spec.rawField s.cfg.width offer.cmdWord → F = Spec.fbitsField s.cfg.width offer.cmdWord →
    S = Spec.signedField s.cfg.width offer.cmdWord → F ≤ s.cfg.w → r = resolveFn s.cfg.width raw F S →
    pre.length = 1 + (intDigits r.ip).length + (fracDigits s.cfg r.fp F).length →
    (∀ i ∈ pre, i.rst = false) → (∀ i ∈ acc, i.rst = false ∧ i.snkErr = false) →
    (acc.filter fun i => i.snkReady).length = j → j < (format s.cfg raw F S).length →
    fail.rst = false → fail.snkErr = true →
      ∃ t, run (1 + pre.length + acc.length + 1) s = .next t ∧
        t.phase = .idle ∧ t.done = true ∧ t.result = .errSink ∧
        t.errcode.toNat = fail.snkCode.toNat % 2 ^ s.cfg.ew ∧ t.ocount.toNat = j ∧
        sends (1 + pre.length + acc.length + 1) s = (format s.cfg raw F S).take j

/-- R238 and R239, [derived] in the spec: a legal command offered in IDLE, in any state, with a sink that takes every
byte at once and no reset, takes exactly N = 3 + pol + 2 ni + 2 nf steps, at most 4 + 2 D(W) + 2 K: after N steps it is
complete, and after 1 to N - 1 steps it is still in flight. -/
def Obligations.UnstalledStepCount : Prop :=
  ∀ (s : State) (offer : Inputs) (later rest : List Inputs) (raw F N : Nat) (S : Bool) (r : Resolved),
    s.phase = .idle → s.script = offer :: (later ++ rest) → offer.rst = false → offer.cmdValid = true →
    raw = Spec.rawField s.cfg.width offer.cmdWord → F = Spec.fbitsField s.cfg.width offer.cmdWord →
    S = Spec.signedField s.cfg.width offer.cmdWord → F ≤ s.cfg.w → r = resolveFn s.cfg.width raw F S →
    N = 3 + r.pol.toNat + 2 * (intDigits r.ip).length + 2 * (fracDigits s.cfg r.fp F).length →
    later.length + 1 = N → (∀ i ∈ later, i.rst = false ∧ i.snkErr = false ∧ i.snkReady = true) →
      (∃ t, run N s = .next t ∧ t.phase = .idle ∧ t.done = true ∧ t.result = .ok) ∧
      (∀ n, 1 ≤ n → n < N → ∃ t, run n s = .next t ∧ t.phase ≠ .idle) ∧
      stepCount s.cfg raw F S = N ∧ N ≤ 4 + 2 * s.cfg.width.digits + 2 * s.cfg.k

/-- R62 and R106, [derived] in the spec: no state passes from one command to the next. From any two idle states of one
configuration, the acceptance of the same legal command leads to one and the same state, and so does everything after
it. -/
def Obligations.CommandForgetsHistory : Prop :=
  ∀ s t : State, s.cfg = t.cfg → s.script = t.script → s.phase = .idle → t.phase = .idle → s.input.rst = false →
    s.input.cmdValid = true → Spec.fbitsField s.cfg.width s.input.cmdWord ≤ s.cfg.w →
      step s = step t ∧ ∀ n, run (n + 1) s = run (n + 1) t ∧ sends (n + 1) s = sends (n + 1) t
end

