-- ==== Sys2Proof/Laws/Memory.lean ====
section
/-! SUPPORT. The digit buffers: reading after writing, the canonical form kept by every write, equal contents are equal
data. -/

namespace Sys2Proof.Machine

@[simp] theorem Memory.get_nil (i : Nat) : Memory.get [] i = 0#8 := rfl
@[simp] theorem Memory.wf_nil : Memory.wf [] = true := rfl
@[simp] theorem Memory.within_nil (cap : Nat) : Memory.within cap [] = true := rfl

theorem Memory.wfFrom_cons {lo a : Nat} {b : Byte} {m : Memory} :
    Memory.wfFrom lo ((a, b) :: m) = true ↔ lo ≤ a ∧ b ≠ 0#8 ∧ Memory.wfFrom (a + 1) m = true := by
  simp [Memory.wfFrom, and_assoc]

theorem Memory.wfFrom_mono {lo lo' : Nat} {m : Memory} (hle : lo' ≤ lo) (h : Memory.wfFrom lo m = true) :
    Memory.wfFrom lo' m = true := by
  cases m with
  | nil => rfl
  | cons c m =>
    obtain ⟨a, b⟩ := c
    rw [Memory.wfFrom_cons] at h ⊢
    exact ⟨by omega, h.2⟩

/-- Below its first address a canonical buffer reads 0x00. -/
theorem Memory.get_eq_zero_of_wfFrom {m : Memory} {lo i : Nat} (h : Memory.wfFrom lo m = true) (hi : i < lo) :
    m.get i = 0#8 := by
  induction m generalizing lo with
  | nil => rfl
  | cons c m ih =>
    obtain ⟨a, b⟩ := c
    rw [Memory.wfFrom_cons] at h
    rw [Memory.get, if_neg (by omega)]
    exact ih h.2.2 (by omega)

/-- A write leaves every other index alone. -/
theorem Memory.get_put_ne (m : Memory) {i j : Nat} (v : Byte) (h : j ≠ i) : (m.put i v).get j = m.get j := by
  induction m with
  | nil => by_cases hv : v = 0#8 <;> simp [Memory.put, Memory.get, hv, Ne.symm h]
  | cons c m ih =>
    obtain ⟨a, b⟩ := c
    simp only [Memory.put]
    split_ifs with h1 h2 h3 h4
    · rfl
    · simp [Memory.get, Ne.symm h]
    · subst h3; simp [Memory.get, Ne.symm h]
    · subst h3; simp [Memory.get, Ne.symm h]
    · simp only [Memory.get, ih]

/-- A written byte other than 0x00 is read back, whatever the buffer held. -/
theorem Memory.get_put_self_of_ne_zero (m : Memory) (i : Nat) {v : Byte} (hv : v ≠ 0#8) : (m.put i v).get i = v := by
  induction m with
  | nil => simp [Memory.put, Memory.get, hv]
  | cons c m ih =>
    obtain ⟨a, b⟩ := c
    simp only [Memory.put]
    split_ifs with h1 h3
    · simp [Memory.get]
    · simp [Memory.get]
    · simpa [Memory.get, Ne.symm h3] using ih

theorem Memory.get_put_self_from {m : Memory} {lo : Nat} (h : Memory.wfFrom lo m = true) (i : Nat) (v : Byte) :
    (m.put i v).get i = v := by
  by_cases hv : v = 0#8
  · subst hv
    induction m generalizing lo with
    | nil => rfl
    | cons c m ih =>
      obtain ⟨a, b⟩ := c
      rw [Memory.wfFrom_cons] at h
      rw [Memory.put, if_pos rfl, if_pos rfl]
      split_ifs with h1 h2
      · rw [Memory.get, if_neg (by omega)]
        exact Memory.get_eq_zero_of_wfFrom h.2.2 (by omega)
      · exact Memory.get_eq_zero_of_wfFrom h.2.2 (by omega)
      · rw [Memory.get, if_neg (Ne.symm h2)]
        exact ih h.2.2
  · exact m.get_put_self_of_ne_zero i hv

/-- In a canonical buffer a written byte is read back. -/
theorem Memory.get_put_self {m : Memory} (h : m.wf = true) (i : Nat) (v : Byte) : (m.put i v).get i = v :=
  Memory.get_put_self_from h i v

theorem Memory.wfFrom_put {m : Memory} {lo i : Nat} (h : Memory.wfFrom lo m = true) (hi : lo ≤ i) (v : Byte) :
    Memory.wfFrom lo (m.put i v) = true := by
  induction m generalizing lo with
  | nil => by_cases hv : v = 0#8 <;> simp [Memory.put, Memory.wfFrom, hv, hi]
  | cons c m ih =>
    obtain ⟨a, b⟩ := c
    have h' := Memory.wfFrom_cons.mp h
    simp only [Memory.put]
    split_ifs with h1 h2 h3 h4
    · exact h
    · exact Memory.wfFrom_cons.mpr ⟨hi, h2, Memory.wfFrom_cons.mpr ⟨h1, h'.2⟩⟩
    · exact Memory.wfFrom_mono (by omega) h'.2.2
    · subst h3
      exact Memory.wfFrom_cons.mpr ⟨hi, h4, h'.2.2⟩
    · exact Memory.wfFrom_cons.mpr ⟨h'.1, h'.2.1, ih h'.2.2 (by omega)⟩

/-- Every write keeps the canonical form. -/
theorem Memory.wf_put {m : Memory} (h : m.wf = true) (i : Nat) (v : Byte) : (m.put i v).wf = true :=
  Memory.wfFrom_put h (Nat.zero_le i) v

theorem Memory.within_cons {cap a : Nat} {b : Byte} {m : Memory} :
    Memory.within cap ((a, b) :: m) = true ↔ a < cap ∧ Memory.within cap m = true := by
  simp [Memory.within]

/-- A write inside the capacity keeps every address inside. -/
theorem Memory.within_put {m : Memory} {cap i : Nat} (h : m.within cap = true) (hi : i < cap) (v : Byte) :
    (m.put i v).within cap = true := by
  induction m with
  | nil => by_cases hv : v = 0#8 <;> simp [Memory.put, Memory.within, hv, hi]
  | cons c m ih =>
    obtain ⟨a, b⟩ := c
    have h' := Memory.within_cons.mp h
    simp only [Memory.put]
    split_ifs with h1 h2 h3 h4
    · exact h
    · exact Memory.within_cons.mpr ⟨hi, h⟩
    · exact h'.2
    · exact Memory.within_cons.mpr ⟨hi, h'.2⟩
    · exact Memory.within_cons.mpr ⟨h'.1, ih h'.2⟩

theorem Memory.ext_from {m n : Memory} {lo : Nat} (hm : Memory.wfFrom lo m = true) (hn : Memory.wfFrom lo n = true)
    (h : ∀ i, m.get i = n.get i) : m = n := by
  induction m generalizing n lo with
  | nil =>
    cases n with
    | nil => rfl
    | cons c n =>
      obtain ⟨a, b⟩ := c
      have hn' := Memory.wfFrom_cons.mp hn
      have := h a
      simp [Memory.get] at this
      exact absurd this.symm hn'.2.1
  | cons c m ih =>
    obtain ⟨a, b⟩ := c
    have hm' := Memory.wfFrom_cons.mp hm
    cases n with
    | nil =>
      have := h a
      simp [Memory.get] at this
      exact absurd this hm'.2.1
    | cons d n =>
      obtain ⟨a', b'⟩ := d
      have hn' := Memory.wfFrom_cons.mp hn
      have haa : a = a' := by
        rcases Nat.lt_trichotomy a a' with hlt | heq | hgt
        · have h1 := h a
          rw [Memory.get, if_pos rfl, Memory.get, if_neg (by omega),
            Memory.get_eq_zero_of_wfFrom hn'.2.2 (by omega)] at h1
          exact absurd h1 hm'.2.1
        · exact heq
        · have h1 := h a'
          rw [Memory.get, if_neg (by omega), Memory.get_eq_zero_of_wfFrom hm'.2.2 (by omega), Memory.get,
            if_pos rfl] at h1
          exact absurd h1.symm hn'.2.1
      subst haa
      have hb : b = b' := by simpa [Memory.get] using h a
      subst hb
      congr 1
      refine ih hm'.2.2 hn'.2.2 fun i => ?_
      by_cases hi : a = i
      · rw [Memory.get_eq_zero_of_wfFrom hm'.2.2 (by omega), Memory.get_eq_zero_of_wfFrom hn'.2.2 (by omega)]
      · simpa [Memory.get, hi] using h i

/-- Canonical buffers that read the same are the same data. -/
theorem Memory.ext {m n : Memory} (hm : m.wf = true) (hn : n.wf = true) (h : ∀ i, m.get i = n.get i) : m = n :=
  Memory.ext_from hm hn h

@[simp] theorem Memory.slice_zero (m : Memory) (lo : Nat) : m.slice lo 0 = [] := rfl

theorem Memory.slice_succ (m : Memory) (lo n : Nat) : m.slice lo (n + 1) = m.get lo :: m.slice (lo + 1) n := by
  simp only [Memory.slice, List.range_succ_eq_map, List.map_cons, List.map_map, Nat.add_zero]
  refine congrArg _ (List.map_congr_left fun i _ => ?_)
  simp only [Function.comp, Nat.succ_eq_add_one]
  congr 1
  omega

/-- Slices of buffers that agree on the slice's indices are equal. -/
theorem Memory.slice_congr {m m' : Memory} {lo n : Nat} (h : ∀ i, lo ≤ i → i < lo + n → m.get i = m'.get i) :
    m.slice lo n = m'.slice lo n :=
  List.map_congr_left fun i hi => h _ (by omega) (by have := List.mem_range.mp hi; omega)

theorem Memory.slice_append_get (m : Memory) (lo n : Nat) : m.slice lo (n + 1) = m.slice lo n ++ [m.get (lo + n)] := by
  simp [Memory.slice, List.range_succ]

@[simp] theorem Memory.length_slice (m : Memory) (lo n : Nat) : (m.slice lo n).length = n := by simp [Memory.slice]

/-- Clearing as 40_command.md R101 writes it, 0x00 at every index of the buffer, gives the empty list that
`State.accept` stores. -/
theorem Memory.clear_loop {m : Memory} {cap : Nat} (h : m.wf = true) (hc : m.within cap = true) :
    (List.range cap).foldl (fun n i => n.put i 0#8) m = [] := by
  have hget : ∀ (l : List Nat) (n : Memory), n.wf = true →
      (l.foldl (fun n i => n.put i 0#8) n).wf = true ∧
      ∀ j, (l.foldl (fun n i => n.put i 0#8) n).get j = if j ∈ l then 0#8 else n.get j := by
    intro l
    induction l with
    | nil => intro n hn; simp [hn]
    | cons i l ih =>
      intro n hn
      obtain ⟨h1, h2⟩ := ih (n.put i 0#8) (Memory.wf_put hn i 0#8)
      refine ⟨h1, fun j => ?_⟩
      rw [List.foldl_cons, h2]
      by_cases hj : j = i
      · subst hj; simp [Memory.get_put_self hn]
      · simp [Memory.get_put_ne n 0#8 hj, hj]
  obtain ⟨h1, h2⟩ := hget (List.range cap) m h
  refine Memory.ext h1 Memory.wf_nil fun j => ?_
  rw [h2, Memory.get_nil]
  split_ifs with hj
  · rfl
  · have hout : ∀ n : Memory, n.within cap = true → ¬ j < cap → n.get j = 0#8 := by
      intro n
      induction n with
      | nil => intros; rfl
      | cons c n ih =>
        obtain ⟨a, b⟩ := c
        intro hn hjc
        simp only [Memory.within, List.all_cons, Bool.and_eq_true, decide_eq_true_eq] at hn ih
        rw [Memory.get, if_neg (by omega)]
        exact ih hn.2 hjc
    exact hout m hc (by simpa using hj)

end Sys2Proof.Machine
end

