-- ==== Sys2Proof/Laws/Operands.lean ====
section
/-! SUPPORT. Small facts about the phase arithmetic and the digit lists. -/

namespace Sys2Proof

theorem Width.bits_le (wd : Width) : wd.bits ≤ 32 := by cases wd <;> decide

theorem Width.eight_le_bits (wd : Width) : 8 ≤ wd.bits := by cases wd <;> decide

theorem Width.two_pow_bits_le (wd : Width) : 2 ^ wd.bits ≤ 2 ^ 32 := Nat.pow_le_pow_right (by omega) wd.bits_le

theorem Width.ib_eq (wd : Width) : wd.ib = wd.digits + 1 := rfl

theorem Width.digits_le (wd : Width) : wd.digits ≤ 10 := by cases wd <;> decide

theorem Width.two_pow_bits_lt_ten_pow (wd : Width) : 2 ^ wd.bits < 10 ^ wd.digits := by cases wd <;> decide

theorem Config.ib_eq (c : Config) : c.ib = c.width.digits + 1 := rfl

theorem Config.ib_le (c : Config) : c.ib ≤ 11 := by have := Width.digits_le c.width; rw [Config.ib_eq]; omega

end Sys2Proof

namespace Sys2Proof.Machine

theorem fracMask_lt (f : Nat) : fracMask f < 2 ^ f := by
  have := Nat.two_pow_pos f
  unfold fracMask
  omega

theorem le_fracMask_iff {x f : Nat} : x ≤ fracMask f ↔ x < 2 ^ f := by
  have := Nat.two_pow_pos f
  unfold fracMask
  omega

theorem intPart_eq_div (m f : Nat) : intPart m f = m / 2 ^ f := Nat.shiftRight_eq_div_pow m f

theorem fracPart_eq_mod (m f : Nat) : fracPart m f = m % 2 ^ f := Nat.and_two_pow_sub_one_eq_mod m f

theorem nextRemainder_eq (wd : Width) (r f : Nat) : nextRemainder wd r f = r * 10 % 2 ^ wd.bits % 2 ^ f :=
  Nat.and_two_pow_sub_one_eq_mod _ f

theorem nextRemainder_le_fracMask (wd : Width) (r f : Nat) : nextRemainder wd r f ≤ fracMask f := by
  rw [nextRemainder_eq, le_fracMask_iff]
  exact Nat.mod_lt _ (Nat.two_pow_pos f)

theorem nextRemainder_lt (wd : Width) (r f : Nat) : nextRemainder wd r f < 2 ^ wd.bits := by
  rw [nextRemainder_eq]
  exact lt_of_le_of_lt (Nat.mod_le _ _) (Nat.mod_lt _ (Nat.two_pow_pos _))

theorem fracDigit_lt_ten (wd : Width) (r f : Nat) : fracDigit wd r f < 10 := Nat.mod_lt _ (by omega)

theorem digitByte_toNat {d : Nat} (h : d < 10) : (digitByte d).toNat = 0x30 + d := by
  simp only [digitByte, BitVec.toNat_ofNat]
  omega

theorem digitByte_ne_zero {d : Nat} (h : d < 10) : digitByte d ≠ 0#8 := by
  intro he
  have := digitByte_toNat h
  rw [he] at this
  simp at this
  omega

/-- The accumulator of the digit loop is appended at the end. -/
theorem intDigitsLoop_append (n x : Nat) (ds : List Nat) : intDigitsLoop n x ds = intDigitsLoop n x [] ++ ds := by
  induction n generalizing x ds with
  | zero => rfl
  | succ n ih =>
    simp only [intDigitsLoop]
    split_ifs
    · rfl
    · rw [ih (x / 10) (x % 10 :: ds), ih (x / 10) [x % 10], List.append_assoc]; rfl

/-- Enough rounds are enough: past the number of digits of `x` more rounds change nothing. -/
theorem intDigitsLoop_succ {n x : Nat} (h : x < 10 ^ n) (hn : 0 < n) :
    intDigitsLoop (n + 1) x [] = intDigitsLoop n x [] := by
  induction n generalizing x with
  | zero => omega
  | succ n ih =>
    rw [intDigitsLoop]
    conv_rhs => rw [intDigitsLoop]
    by_cases hx : x / 10 = 0
    · rw [if_pos hx, if_pos hx]
    · rw [if_neg hx, if_neg hx, intDigitsLoop_append, intDigitsLoop_append n]
      rcases Nat.eq_zero_or_pos n with h0 | h0
      · subst h0; omega
      · rw [ih (by rw [Nat.pow_succ] at h; omega) h0]

/-- One step of `IntDigits`: the last digit, after those of the quotient if it is not 0. -/
theorem intDigits_eq {x : Nat} (h : x < 2 ^ 32) :
    intDigits x = if x / 10 = 0 then [x % 10] else intDigits (x / 10) ++ [x % 10] := by
  unfold intDigits
  conv_lhs => rw [intDigitsLoop]
  split_ifs with hx
  · rfl
  · rw [intDigitsLoop_append, ← intDigitsLoop_succ (n := 9) (by omega) (by omega)]

theorem fracDigitsLoop_zero (wd : Width) (f r : Nat) : fracDigitsLoop wd f 0 r = [] := rfl

theorem fracDigitsLoop_succ (wd : Width) (f n r : Nat) :
    fracDigitsLoop wd f (n + 1) r =
      fracDigit wd r f ::
        if nextRemainder wd r f = 0 then [] else fracDigitsLoop wd f n (nextRemainder wd r f) := rfl

end Sys2Proof.Machine
end

