-- ==== Sys2Proof/Laws/State.lean ====
section
/-! SUPPORT. The fields of each named update of State, one lemma per field, so that no proof unfolds an update. -/

namespace Sys2Proof.Machine

/-- `s` with one more integer digit (R140): the byte below the used region, ISTART, the quotient. -/
def State.withIntDigit (s : State) : State :=
  { s with
    ibuf := s.ibuf.put (s.istart.toNat - 1) (digitByte (s.irem.toNat % 10))
    istart := s.istart - 1#4, irem := BitVec.ofNat 32 (s.irem.toNat / 10) }

/-- `s` with the sign byte below the digits, in FRACDIG (R144). -/
def State.withSign (s : State) : State :=
  { s with
    ibuf := s.ibuf.put (s.istart.toNat - 1) minusByte, istart := s.istart - 1#4, phase := .fracdig }

/-- `s` with one more fractional digit (R160): the byte, FCNT, the true remainder. -/
def State.withFracDigit (s : State) : State :=
  { s with
    fbuf := s.fbuf.put s.fcnt.toNat (digitByte (fracDigit s.cfg.width s.frem.toNat s.fb.toNat))
    fcnt := s.fcnt + 1#7
    frem := BitVec.ofNat 32 (nextRemainder s.cfg.width s.frem.toNat s.fb.toNat) }

@[simp] theorem State.resetOf_cfg (c : Config) (l : List Inputs) : (State.resetOf c l).cfg = c := rfl
@[simp] theorem State.resetOf_phase (c : Config) (l : List Inputs) : (State.resetOf c l).phase = .idle := rfl
@[simp] theorem State.resetOf_raw (c : Config) (l : List Inputs) : (State.resetOf c l).raw = 0#32 := rfl
@[simp] theorem State.resetOf_fb (c : Config) (l : List Inputs) : (State.resetOf c l).fb = 0#6 := rfl
@[simp] theorem State.resetOf_sgn (c : Config) (l : List Inputs) : (State.resetOf c l).sgn = false := rfl
@[simp] theorem State.resetOf_mag (c : Config) (l : List Inputs) : (State.resetOf c l).mag = 0#32 := rfl
@[simp] theorem State.resetOf_pol (c : Config) (l : List Inputs) : (State.resetOf c l).pol = false := rfl
@[simp] theorem State.resetOf_irem (c : Config) (l : List Inputs) : (State.resetOf c l).irem = 0#32 := rfl
@[simp] theorem State.resetOf_frem (c : Config) (l : List Inputs) : (State.resetOf c l).frem = 0#32 := rfl
@[simp] theorem State.resetOf_ibuf (c : Config) (l : List Inputs) : (State.resetOf c l).ibuf = [] := rfl
@[simp] theorem State.resetOf_istart (c : Config) (l : List Inputs) : (State.resetOf c l).istart = 0#4 := rfl
@[simp] theorem State.resetOf_fbuf (c : Config) (l : List Inputs) : (State.resetOf c l).fbuf = [] := rfl
@[simp] theorem State.resetOf_fcnt (c : Config) (l : List Inputs) : (State.resetOf c l).fcnt = 0#7 := rfl
@[simp] theorem State.resetOf_ecur (c : Config) (l : List Inputs) : (State.resetOf c l).ecur = 0#7 := rfl
@[simp] theorem State.resetOf_ocount (c : Config) (l : List Inputs) : (State.resetOf c l).ocount = 0#8 := rfl
@[simp] theorem State.resetOf_result (c : Config) (l : List Inputs) : (State.resetOf c l).result = .none := rfl
@[simp] theorem State.resetOf_errcode (c : Config) (l : List Inputs) : (State.resetOf c l).errcode = 0#32 := rfl
@[simp] theorem State.resetOf_done (c : Config) (l : List Inputs) : (State.resetOf c l).done = false := rfl
@[simp] theorem State.resetOf_script (c : Config) (l : List Inputs) : (State.resetOf c l).script = l := rfl

@[simp] theorem State.resetStep_cfg (s : State) : s.resetStep.cfg = s.cfg := rfl
@[simp] theorem State.resetStep_phase (s : State) : s.resetStep.phase = .idle := rfl
@[simp] theorem State.resetStep_raw (s : State) : s.resetStep.raw = 0#32 := rfl
@[simp] theorem State.resetStep_fb (s : State) : s.resetStep.fb = 0#6 := rfl
@[simp] theorem State.resetStep_sgn (s : State) : s.resetStep.sgn = false := rfl
@[simp] theorem State.resetStep_mag (s : State) : s.resetStep.mag = 0#32 := rfl
@[simp] theorem State.resetStep_pol (s : State) : s.resetStep.pol = false := rfl
@[simp] theorem State.resetStep_irem (s : State) : s.resetStep.irem = 0#32 := rfl
@[simp] theorem State.resetStep_frem (s : State) : s.resetStep.frem = 0#32 := rfl
@[simp] theorem State.resetStep_ibuf (s : State) : s.resetStep.ibuf = [] := rfl
@[simp] theorem State.resetStep_istart (s : State) : s.resetStep.istart = 0#4 := rfl
@[simp] theorem State.resetStep_fbuf (s : State) : s.resetStep.fbuf = [] := rfl
@[simp] theorem State.resetStep_fcnt (s : State) : s.resetStep.fcnt = 0#7 := rfl
@[simp] theorem State.resetStep_ecur (s : State) : s.resetStep.ecur = 0#7 := rfl
@[simp] theorem State.resetStep_ocount (s : State) : s.resetStep.ocount = 0#8 := rfl
@[simp] theorem State.resetStep_result (s : State) : s.resetStep.result = .none := rfl
@[simp] theorem State.resetStep_errcode (s : State) : s.resetStep.errcode = 0#32 := rfl
@[simp] theorem State.resetStep_done (s : State) : s.resetStep.done = false := rfl
@[simp] theorem State.resetStep_script (s : State) : s.resetStep.script = s.script := rfl

@[simp] theorem State.clearDone_cfg (s : State) : s.clearDone.cfg = s.cfg := rfl
@[simp] theorem State.clearDone_phase (s : State) : s.clearDone.phase = s.phase := rfl
@[simp] theorem State.clearDone_raw (s : State) : s.clearDone.raw = s.raw := rfl
@[simp] theorem State.clearDone_fb (s : State) : s.clearDone.fb = s.fb := rfl
@[simp] theorem State.clearDone_sgn (s : State) : s.clearDone.sgn = s.sgn := rfl
@[simp] theorem State.clearDone_mag (s : State) : s.clearDone.mag = s.mag := rfl
@[simp] theorem State.clearDone_pol (s : State) : s.clearDone.pol = s.pol := rfl
@[simp] theorem State.clearDone_irem (s : State) : s.clearDone.irem = s.irem := rfl
@[simp] theorem State.clearDone_frem (s : State) : s.clearDone.frem = s.frem := rfl
@[simp] theorem State.clearDone_ibuf (s : State) : s.clearDone.ibuf = s.ibuf := rfl
@[simp] theorem State.clearDone_istart (s : State) : s.clearDone.istart = s.istart := rfl
@[simp] theorem State.clearDone_fbuf (s : State) : s.clearDone.fbuf = s.fbuf := rfl
@[simp] theorem State.clearDone_fcnt (s : State) : s.clearDone.fcnt = s.fcnt := rfl
@[simp] theorem State.clearDone_ecur (s : State) : s.clearDone.ecur = s.ecur := rfl
@[simp] theorem State.clearDone_ocount (s : State) : s.clearDone.ocount = s.ocount := rfl
@[simp] theorem State.clearDone_result (s : State) : s.clearDone.result = s.result := rfl
@[simp] theorem State.clearDone_errcode (s : State) : s.clearDone.errcode = s.errcode := rfl
@[simp] theorem State.clearDone_done (s : State) : s.clearDone.done = false := rfl
@[simp] theorem State.clearDone_script (s : State) : s.clearDone.script = s.script := rfl

@[simp] theorem State.nextSample_cfg (s : State) : s.nextSample.cfg = s.cfg := rfl
@[simp] theorem State.nextSample_phase (s : State) : s.nextSample.phase = s.phase := rfl
@[simp] theorem State.nextSample_raw (s : State) : s.nextSample.raw = s.raw := rfl
@[simp] theorem State.nextSample_fb (s : State) : s.nextSample.fb = s.fb := rfl
@[simp] theorem State.nextSample_sgn (s : State) : s.nextSample.sgn = s.sgn := rfl
@[simp] theorem State.nextSample_mag (s : State) : s.nextSample.mag = s.mag := rfl
@[simp] theorem State.nextSample_pol (s : State) : s.nextSample.pol = s.pol := rfl
@[simp] theorem State.nextSample_irem (s : State) : s.nextSample.irem = s.irem := rfl
@[simp] theorem State.nextSample_frem (s : State) : s.nextSample.frem = s.frem := rfl
@[simp] theorem State.nextSample_ibuf (s : State) : s.nextSample.ibuf = s.ibuf := rfl
@[simp] theorem State.nextSample_istart (s : State) : s.nextSample.istart = s.istart := rfl
@[simp] theorem State.nextSample_fbuf (s : State) : s.nextSample.fbuf = s.fbuf := rfl
@[simp] theorem State.nextSample_fcnt (s : State) : s.nextSample.fcnt = s.fcnt := rfl
@[simp] theorem State.nextSample_ecur (s : State) : s.nextSample.ecur = s.ecur := rfl
@[simp] theorem State.nextSample_ocount (s : State) : s.nextSample.ocount = s.ocount := rfl
@[simp] theorem State.nextSample_result (s : State) : s.nextSample.result = s.result := rfl
@[simp] theorem State.nextSample_errcode (s : State) : s.nextSample.errcode = s.errcode := rfl
@[simp] theorem State.nextSample_done (s : State) : s.nextSample.done = s.done := rfl
@[simp] theorem State.nextSample_script (s : State) : s.nextSample.script = s.script.tail := rfl

@[simp] theorem State.withInput_cfg (s : State) (i : Inputs) : (s.withInput i).cfg = s.cfg := rfl
@[simp] theorem State.withInput_phase (s : State) (i : Inputs) : (s.withInput i).phase = s.phase := rfl
@[simp] theorem State.withInput_raw (s : State) (i : Inputs) : (s.withInput i).raw = s.raw := rfl
@[simp] theorem State.withInput_fb (s : State) (i : Inputs) : (s.withInput i).fb = s.fb := rfl
@[simp] theorem State.withInput_sgn (s : State) (i : Inputs) : (s.withInput i).sgn = s.sgn := rfl
@[simp] theorem State.withInput_mag (s : State) (i : Inputs) : (s.withInput i).mag = s.mag := rfl
@[simp] theorem State.withInput_pol (s : State) (i : Inputs) : (s.withInput i).pol = s.pol := rfl
@[simp] theorem State.withInput_irem (s : State) (i : Inputs) : (s.withInput i).irem = s.irem := rfl
@[simp] theorem State.withInput_frem (s : State) (i : Inputs) : (s.withInput i).frem = s.frem := rfl
@[simp] theorem State.withInput_ibuf (s : State) (i : Inputs) : (s.withInput i).ibuf = s.ibuf := rfl
@[simp] theorem State.withInput_istart (s : State) (i : Inputs) : (s.withInput i).istart = s.istart := rfl
@[simp] theorem State.withInput_fbuf (s : State) (i : Inputs) : (s.withInput i).fbuf = s.fbuf := rfl
@[simp] theorem State.withInput_fcnt (s : State) (i : Inputs) : (s.withInput i).fcnt = s.fcnt := rfl
@[simp] theorem State.withInput_ecur (s : State) (i : Inputs) : (s.withInput i).ecur = s.ecur := rfl
@[simp] theorem State.withInput_ocount (s : State) (i : Inputs) : (s.withInput i).ocount = s.ocount := rfl
@[simp] theorem State.withInput_result (s : State) (i : Inputs) : (s.withInput i).result = s.result := rfl
@[simp] theorem State.withInput_errcode (s : State) (i : Inputs) : (s.withInput i).errcode = s.errcode := rfl
@[simp] theorem State.withInput_done (s : State) (i : Inputs) : (s.withInput i).done = s.done := rfl
@[simp] theorem State.withInput_script (s : State) (i : Inputs) : (s.withInput i).script = i :: s.script.tail := rfl

@[simp] theorem State.complete_cfg (s : State) (c : ResultCode) (e : Nat) : (s.complete c e).cfg = s.cfg := rfl
@[simp] theorem State.complete_phase (s : State) (c : ResultCode) (e : Nat) : (s.complete c e).phase = .idle := rfl
@[simp] theorem State.complete_raw (s : State) (c : ResultCode) (e : Nat) : (s.complete c e).raw = s.raw := rfl
@[simp] theorem State.complete_fb (s : State) (c : ResultCode) (e : Nat) : (s.complete c e).fb = s.fb := rfl
@[simp] theorem State.complete_sgn (s : State) (c : ResultCode) (e : Nat) : (s.complete c e).sgn = s.sgn := rfl
@[simp] theorem State.complete_mag (s : State) (c : ResultCode) (e : Nat) : (s.complete c e).mag = s.mag := rfl
@[simp] theorem State.complete_pol (s : State) (c : ResultCode) (e : Nat) : (s.complete c e).pol = s.pol := rfl
@[simp] theorem State.complete_irem (s : State) (c : ResultCode) (e : Nat) : (s.complete c e).irem = s.irem := rfl
@[simp] theorem State.complete_frem (s : State) (c : ResultCode) (e : Nat) : (s.complete c e).frem = s.frem := rfl
@[simp] theorem State.complete_ibuf (s : State) (c : ResultCode) (e : Nat) : (s.complete c e).ibuf = s.ibuf := rfl
@[simp] theorem State.complete_istart (s : State) (c : ResultCode) (e : Nat) : (s.complete c e).istart = s.istart := rfl
@[simp] theorem State.complete_fbuf (s : State) (c : ResultCode) (e : Nat) : (s.complete c e).fbuf = s.fbuf := rfl
@[simp] theorem State.complete_fcnt (s : State) (c : ResultCode) (e : Nat) : (s.complete c e).fcnt = s.fcnt := rfl
@[simp] theorem State.complete_ecur (s : State) (c : ResultCode) (e : Nat) : (s.complete c e).ecur = s.ecur := rfl
@[simp] theorem State.complete_ocount (s : State) (c : ResultCode) (e : Nat) : (s.complete c e).ocount = s.ocount := rfl
@[simp] theorem State.complete_result (s : State) (c : ResultCode) (e : Nat) : (s.complete c e).result = c := rfl
@[simp] theorem State.complete_errcode (s : State) (c : ResultCode) (e : Nat) : (s.complete c e).errcode = BitVec.ofNat 32 e := rfl
@[simp] theorem State.complete_done (s : State) (c : ResultCode) (e : Nat) : (s.complete c e).done = true := rfl
@[simp] theorem State.complete_script (s : State) (c : ResultCode) (e : Nat) : (s.complete c e).script = s.script := rfl

@[simp] theorem State.reject_cfg (s : State) : s.reject.cfg = s.cfg := rfl
@[simp] theorem State.reject_phase (s : State) : s.reject.phase = .idle := rfl
@[simp] theorem State.reject_raw (s : State) : s.reject.raw = s.raw := rfl
@[simp] theorem State.reject_fb (s : State) : s.reject.fb = s.fb := rfl
@[simp] theorem State.reject_sgn (s : State) : s.reject.sgn = s.sgn := rfl
@[simp] theorem State.reject_mag (s : State) : s.reject.mag = s.mag := rfl
@[simp] theorem State.reject_pol (s : State) : s.reject.pol = s.pol := rfl
@[simp] theorem State.reject_irem (s : State) : s.reject.irem = s.irem := rfl
@[simp] theorem State.reject_frem (s : State) : s.reject.frem = s.frem := rfl
@[simp] theorem State.reject_ibuf (s : State) : s.reject.ibuf = s.ibuf := rfl
@[simp] theorem State.reject_istart (s : State) : s.reject.istart = s.istart := rfl
@[simp] theorem State.reject_fbuf (s : State) : s.reject.fbuf = s.fbuf := rfl
@[simp] theorem State.reject_fcnt (s : State) : s.reject.fcnt = s.fcnt := rfl
@[simp] theorem State.reject_ecur (s : State) : s.reject.ecur = s.ecur := rfl
@[simp] theorem State.reject_ocount (s : State) : s.reject.ocount = 0#8 := rfl
@[simp] theorem State.reject_result (s : State) : s.reject.result = .errFbits := rfl
@[simp] theorem State.reject_errcode (s : State) : s.reject.errcode = 0#32 := rfl
@[simp] theorem State.reject_done (s : State) : s.reject.done = true := rfl
@[simp] theorem State.reject_script (s : State) : s.reject.script = s.script := rfl

@[simp] theorem State.accept_cfg (s : State) (r : Word) (f : BitVec 6) (g : Bool) : (s.accept r f g).cfg = s.cfg := rfl
@[simp] theorem State.accept_phase (s : State) (r : Word) (f : BitVec 6) (g : Bool) : (s.accept r f g).phase = .resolve := rfl
@[simp] theorem State.accept_raw (s : State) (r : Word) (f : BitVec 6) (g : Bool) : (s.accept r f g).raw = r := rfl
@[simp] theorem State.accept_fb (s : State) (r : Word) (f : BitVec 6) (g : Bool) : (s.accept r f g).fb = f := rfl
@[simp] theorem State.accept_sgn (s : State) (r : Word) (f : BitVec 6) (g : Bool) : (s.accept r f g).sgn = g := rfl
@[simp] theorem State.accept_mag (s : State) (r : Word) (f : BitVec 6) (g : Bool) : (s.accept r f g).mag = 0#32 := rfl
@[simp] theorem State.accept_pol (s : State) (r : Word) (f : BitVec 6) (g : Bool) : (s.accept r f g).pol = false := rfl
@[simp] theorem State.accept_irem (s : State) (r : Word) (f : BitVec 6) (g : Bool) : (s.accept r f g).irem = 0#32 := rfl
@[simp] theorem State.accept_frem (s : State) (r : Word) (f : BitVec 6) (g : Bool) : (s.accept r f g).frem = 0#32 := rfl
@[simp] theorem State.accept_ibuf (s : State) (r : Word) (f : BitVec 6) (g : Bool) : (s.accept r f g).ibuf = [] := rfl
@[simp] theorem State.accept_istart (s : State) (r : Word) (f : BitVec 6) (g : Bool) : (s.accept r f g).istart = BitVec.ofNat 4 s.cfg.ib := rfl
@[simp] theorem State.accept_fbuf (s : State) (r : Word) (f : BitVec 6) (g : Bool) : (s.accept r f g).fbuf = [] := rfl
@[simp] theorem State.accept_fcnt (s : State) (r : Word) (f : BitVec 6) (g : Bool) : (s.accept r f g).fcnt = 0#7 := rfl
@[simp] theorem State.accept_ecur (s : State) (r : Word) (f : BitVec 6) (g : Bool) : (s.accept r f g).ecur = 0#7 := rfl
@[simp] theorem State.accept_ocount (s : State) (r : Word) (f : BitVec 6) (g : Bool) : (s.accept r f g).ocount = 0#8 := rfl
@[simp] theorem State.accept_result (s : State) (r : Word) (f : BitVec 6) (g : Bool) : (s.accept r f g).result = .none := rfl
@[simp] theorem State.accept_errcode (s : State) (r : Word) (f : BitVec 6) (g : Bool) : (s.accept r f g).errcode = 0#32 := rfl
@[simp] theorem State.accept_done (s : State) (r : Word) (f : BitVec 6) (g : Bool) : (s.accept r f g).done = s.done := rfl
@[simp] theorem State.accept_script (s : State) (r : Word) (f : BitVec 6) (g : Bool) : (s.accept r f g).script = s.script := rfl

@[simp] theorem State.withIntDigit_cfg (s : State) : s.withIntDigit.cfg = s.cfg := rfl
@[simp] theorem State.withIntDigit_phase (s : State) : s.withIntDigit.phase = s.phase := rfl
@[simp] theorem State.withIntDigit_raw (s : State) : s.withIntDigit.raw = s.raw := rfl
@[simp] theorem State.withIntDigit_fb (s : State) : s.withIntDigit.fb = s.fb := rfl
@[simp] theorem State.withIntDigit_sgn (s : State) : s.withIntDigit.sgn = s.sgn := rfl
@[simp] theorem State.withIntDigit_mag (s : State) : s.withIntDigit.mag = s.mag := rfl
@[simp] theorem State.withIntDigit_pol (s : State) : s.withIntDigit.pol = s.pol := rfl
@[simp] theorem State.withIntDigit_irem (s : State) : s.withIntDigit.irem = BitVec.ofNat 32 (s.irem.toNat / 10) := rfl
@[simp] theorem State.withIntDigit_frem (s : State) : s.withIntDigit.frem = s.frem := rfl
@[simp] theorem State.withIntDigit_ibuf (s : State) : s.withIntDigit.ibuf = s.ibuf.put (s.istart.toNat - 1) (digitByte (s.irem.toNat % 10)) := rfl
@[simp] theorem State.withIntDigit_istart (s : State) : s.withIntDigit.istart = s.istart - 1#4 := rfl
@[simp] theorem State.withIntDigit_fbuf (s : State) : s.withIntDigit.fbuf = s.fbuf := rfl
@[simp] theorem State.withIntDigit_fcnt (s : State) : s.withIntDigit.fcnt = s.fcnt := rfl
@[simp] theorem State.withIntDigit_ecur (s : State) : s.withIntDigit.ecur = s.ecur := rfl
@[simp] theorem State.withIntDigit_ocount (s : State) : s.withIntDigit.ocount = s.ocount := rfl
@[simp] theorem State.withIntDigit_result (s : State) : s.withIntDigit.result = s.result := rfl
@[simp] theorem State.withIntDigit_errcode (s : State) : s.withIntDigit.errcode = s.errcode := rfl
@[simp] theorem State.withIntDigit_done (s : State) : s.withIntDigit.done = s.done := rfl
@[simp] theorem State.withIntDigit_script (s : State) : s.withIntDigit.script = s.script := rfl

@[simp] theorem State.withSign_cfg (s : State) : s.withSign.cfg = s.cfg := rfl
@[simp] theorem State.withSign_phase (s : State) : s.withSign.phase = .fracdig := rfl
@[simp] theorem State.withSign_raw (s : State) : s.withSign.raw = s.raw := rfl
@[simp] theorem State.withSign_fb (s : State) : s.withSign.fb = s.fb := rfl
@[simp] theorem State.withSign_sgn (s : State) : s.withSign.sgn = s.sgn := rfl
@[simp] theorem State.withSign_mag (s : State) : s.withSign.mag = s.mag := rfl
@[simp] theorem State.withSign_pol (s : State) : s.withSign.pol = s.pol := rfl
@[simp] theorem State.withSign_irem (s : State) : s.withSign.irem = s.irem := rfl
@[simp] theorem State.withSign_frem (s : State) : s.withSign.frem = s.frem := rfl
@[simp] theorem State.withSign_ibuf (s : State) : s.withSign.ibuf = s.ibuf.put (s.istart.toNat - 1) minusByte := rfl
@[simp] theorem State.withSign_istart (s : State) : s.withSign.istart = s.istart - 1#4 := rfl
@[simp] theorem State.withSign_fbuf (s : State) : s.withSign.fbuf = s.fbuf := rfl
@[simp] theorem State.withSign_fcnt (s : State) : s.withSign.fcnt = s.fcnt := rfl
@[simp] theorem State.withSign_ecur (s : State) : s.withSign.ecur = s.ecur := rfl
@[simp] theorem State.withSign_ocount (s : State) : s.withSign.ocount = s.ocount := rfl
@[simp] theorem State.withSign_result (s : State) : s.withSign.result = s.result := rfl
@[simp] theorem State.withSign_errcode (s : State) : s.withSign.errcode = s.errcode := rfl
@[simp] theorem State.withSign_done (s : State) : s.withSign.done = s.done := rfl
@[simp] theorem State.withSign_script (s : State) : s.withSign.script = s.script := rfl

@[simp] theorem State.withFracDigit_cfg (s : State) : s.withFracDigit.cfg = s.cfg := rfl
@[simp] theorem State.withFracDigit_phase (s : State) : s.withFracDigit.phase = s.phase := rfl
@[simp] theorem State.withFracDigit_raw (s : State) : s.withFracDigit.raw = s.raw := rfl
@[simp] theorem State.withFracDigit_fb (s : State) : s.withFracDigit.fb = s.fb := rfl
@[simp] theorem State.withFracDigit_sgn (s : State) : s.withFracDigit.sgn = s.sgn := rfl
@[simp] theorem State.withFracDigit_mag (s : State) : s.withFracDigit.mag = s.mag := rfl
@[simp] theorem State.withFracDigit_pol (s : State) : s.withFracDigit.pol = s.pol := rfl
@[simp] theorem State.withFracDigit_irem (s : State) : s.withFracDigit.irem = s.irem := rfl
@[simp] theorem State.withFracDigit_frem (s : State) : s.withFracDigit.frem = BitVec.ofNat 32 (nextRemainder s.cfg.width s.frem.toNat s.fb.toNat) := rfl
@[simp] theorem State.withFracDigit_ibuf (s : State) : s.withFracDigit.ibuf = s.ibuf := rfl
@[simp] theorem State.withFracDigit_istart (s : State) : s.withFracDigit.istart = s.istart := rfl
@[simp] theorem State.withFracDigit_fbuf (s : State) : s.withFracDigit.fbuf = s.fbuf.put s.fcnt.toNat (digitByte (fracDigit s.cfg.width s.frem.toNat s.fb.toNat)) := rfl
@[simp] theorem State.withFracDigit_fcnt (s : State) : s.withFracDigit.fcnt = s.fcnt + 1#7 := rfl
@[simp] theorem State.withFracDigit_ecur (s : State) : s.withFracDigit.ecur = s.ecur := rfl
@[simp] theorem State.withFracDigit_ocount (s : State) : s.withFracDigit.ocount = s.ocount := rfl
@[simp] theorem State.withFracDigit_result (s : State) : s.withFracDigit.result = s.result := rfl
@[simp] theorem State.withFracDigit_errcode (s : State) : s.withFracDigit.errcode = s.errcode := rfl
@[simp] theorem State.withFracDigit_done (s : State) : s.withFracDigit.done = s.done := rfl
@[simp] theorem State.withFracDigit_script (s : State) : s.withFracDigit.script = s.script := rfl

@[simp] theorem State.advanceEmitSign_cfg (s : State) : (advanceEmitSign s).cfg = s.cfg := rfl
@[simp] theorem State.advanceEmitSign_phase (s : State) : (advanceEmitSign s).phase = .emitInt := rfl
@[simp] theorem State.advanceEmitSign_raw (s : State) : (advanceEmitSign s).raw = s.raw := rfl
@[simp] theorem State.advanceEmitSign_fb (s : State) : (advanceEmitSign s).fb = s.fb := rfl
@[simp] theorem State.advanceEmitSign_sgn (s : State) : (advanceEmitSign s).sgn = s.sgn := rfl
@[simp] theorem State.advanceEmitSign_mag (s : State) : (advanceEmitSign s).mag = s.mag := rfl
@[simp] theorem State.advanceEmitSign_pol (s : State) : (advanceEmitSign s).pol = s.pol := rfl
@[simp] theorem State.advanceEmitSign_irem (s : State) : (advanceEmitSign s).irem = s.irem := rfl
@[simp] theorem State.advanceEmitSign_frem (s : State) : (advanceEmitSign s).frem = s.frem := rfl
@[simp] theorem State.advanceEmitSign_ibuf (s : State) : (advanceEmitSign s).ibuf = s.ibuf := rfl
@[simp] theorem State.advanceEmitSign_istart (s : State) : (advanceEmitSign s).istart = s.istart := rfl
@[simp] theorem State.advanceEmitSign_fbuf (s : State) : (advanceEmitSign s).fbuf = s.fbuf := rfl
@[simp] theorem State.advanceEmitSign_fcnt (s : State) : (advanceEmitSign s).fcnt = s.fcnt := rfl
@[simp] theorem State.advanceEmitSign_ecur (s : State) : (advanceEmitSign s).ecur = s.ecur + 1#7 := rfl
@[simp] theorem State.advanceEmitSign_ocount (s : State) : (advanceEmitSign s).ocount = s.ocount := rfl
@[simp] theorem State.advanceEmitSign_result (s : State) : (advanceEmitSign s).result = s.result := rfl
@[simp] theorem State.advanceEmitSign_errcode (s : State) : (advanceEmitSign s).errcode = s.errcode := rfl
@[simp] theorem State.advanceEmitSign_done (s : State) : (advanceEmitSign s).done = s.done := rfl
@[simp] theorem State.advanceEmitSign_script (s : State) : (advanceEmitSign s).script = s.script := rfl

@[simp] theorem State.advanceEmitPoint_cfg (s : State) : (advanceEmitPoint s).cfg = s.cfg := rfl
@[simp] theorem State.advanceEmitPoint_phase (s : State) : (advanceEmitPoint s).phase = .emitFrac := rfl
@[simp] theorem State.advanceEmitPoint_raw (s : State) : (advanceEmitPoint s).raw = s.raw := rfl
@[simp] theorem State.advanceEmitPoint_fb (s : State) : (advanceEmitPoint s).fb = s.fb := rfl
@[simp] theorem State.advanceEmitPoint_sgn (s : State) : (advanceEmitPoint s).sgn = s.sgn := rfl
@[simp] theorem State.advanceEmitPoint_mag (s : State) : (advanceEmitPoint s).mag = s.mag := rfl
@[simp] theorem State.advanceEmitPoint_pol (s : State) : (advanceEmitPoint s).pol = s.pol := rfl
@[simp] theorem State.advanceEmitPoint_irem (s : State) : (advanceEmitPoint s).irem = s.irem := rfl
@[simp] theorem State.advanceEmitPoint_frem (s : State) : (advanceEmitPoint s).frem = s.frem := rfl
@[simp] theorem State.advanceEmitPoint_ibuf (s : State) : (advanceEmitPoint s).ibuf = s.ibuf := rfl
@[simp] theorem State.advanceEmitPoint_istart (s : State) : (advanceEmitPoint s).istart = s.istart := rfl
@[simp] theorem State.advanceEmitPoint_fbuf (s : State) : (advanceEmitPoint s).fbuf = s.fbuf := rfl
@[simp] theorem State.advanceEmitPoint_fcnt (s : State) : (advanceEmitPoint s).fcnt = s.fcnt := rfl
@[simp] theorem State.advanceEmitPoint_ecur (s : State) : (advanceEmitPoint s).ecur = 0#7 := rfl
@[simp] theorem State.advanceEmitPoint_ocount (s : State) : (advanceEmitPoint s).ocount = s.ocount := rfl
@[simp] theorem State.advanceEmitPoint_result (s : State) : (advanceEmitPoint s).result = s.result := rfl
@[simp] theorem State.advanceEmitPoint_errcode (s : State) : (advanceEmitPoint s).errcode = s.errcode := rfl
@[simp] theorem State.advanceEmitPoint_done (s : State) : (advanceEmitPoint s).done = s.done := rfl
@[simp] theorem State.advanceEmitPoint_script (s : State) : (advanceEmitPoint s).script = s.script := rfl

end Sys2Proof.Machine
end

