-- ==== Sys2Proof/Laws/Ops.lean ====
section
/-! SUPPORT. For each shared operation one lemma that says everything it can do. -/

namespace Sys2Proof.Machine

theorem State.readIbuf_eq_ok {s : State} {i : Nat} {b : Byte} :
    s.readIbuf i = .ok b ↔ i < s.cfg.ib ∧ b = s.ibuf.get i := by
  unfold State.readIbuf
  split_ifs with h <;> simp [h, eq_comm]

theorem State.readFbuf_eq_ok {s : State} {i : Nat} {b : Byte} :
    s.readFbuf i = .ok b ↔ i < s.cfg.k ∧ b = s.fbuf.get i := by
  unfold State.readFbuf
  split_ifs with h <;> simp [h, eq_comm]

theorem State.pushIbuf_eq_ok {s t : State} {b : Byte} :
    s.pushIbuf b = .ok t ↔
      0 < s.istart.toNat ∧ s.istart.toNat - 1 < s.cfg.ib ∧
      t = { s with ibuf := s.ibuf.put (s.istart.toNat - 1) b, istart := s.istart - 1#4 } := by
  unfold State.pushIbuf
  split_ifs with h
  · simp [h.1, h.2, eq_comm]
  · simp only [false_iff]
    exact fun h' => h ⟨h'.1, h'.2.1⟩

theorem State.pushFbuf_eq_ok {s t : State} {b : Byte} :
    s.pushFbuf b = .ok t ↔
      s.fcnt.toNat < s.cfg.k ∧ t = { s with fbuf := s.fbuf.put s.fcnt.toNat b, fcnt := s.fcnt + 1#7 } := by
  unfold State.pushFbuf
  split_ifs with h <;> simp [h, eq_comm]

theorem State.countByte_eq_ok {s t : State} :
    s.countByte = .ok t ↔ s.ocount.toNat < 255 ∧ t = { s with ocount := s.ocount + 1#8 } := by
  unfold State.countByte
  split_ifs with h <;> simp [h, eq_comm]

theorem State.istart_sub_toNat {s : State} (h : 0 < s.istart.toNat) : (s.istart - 1#4).toNat = s.istart.toNat - 1 := by
  have := s.istart.isLt
  rw [BitVec.toNat_sub]
  simp only [BitVec.toNat_ofNat]
  omega

theorem State.fcnt_add_toNat {s : State} (h : s.fcnt.toNat < s.cfg.k) : (s.fcnt + 1#7).toNat = s.fcnt.toNat + 1 := by
  have := s.cfg.k_legal
  rw [BitVec.toNat_add]
  simp only [BitVec.toNat_ofNat]
  omega

theorem State.ocount_add_toNat {s : State} (h : s.ocount.toNat < 255) :
    (s.ocount + 1#8).toNat = s.ocount.toNat + 1 := by
  rw [BitVec.toNat_add]
  simp only [BitVec.toNat_ofNat]
  omega

theorem ecur_add_toNat {e : BitVec 7} (h : e.toNat < 127) : (e + 1#7).toNat = e.toNat + 1 := by
  rw [BitVec.toNat_add]
  simp only [BitVec.toNat_ofNat]
  omega

theorem afterNext_eq_next {f : State → State} {o : Host.Outcome State Fault Refusal} {t : State} :
    afterNext f o = .next t ↔ ∃ u, o = .next u ∧ t = f u := by
  cases o <;> simp [afterNext, eq_comm]

/-- A command: its effect in IDLE, no effect while busy, refused for another W. -/
theorem takeCommand_eq_next {wd : Width} {effect : State → State} {s t : State} :
    takeCommand wd effect s = .next t ↔
      s.cfg.width = wd ∧ ((s.phase = .idle ∧ t = effect s) ∨ (s.phase ≠ .idle ∧ t = s)) := by
  unfold takeCommand
  by_cases h1 : s.cfg.width = wd
  · by_cases h2 : s.phase = .idle <;> simp [h1, h2, eq_comm]
  · simp [h1]

/-- The handshake: it needs a byte to offer, and then a failure completes, an acceptance counts and advances, a stall
changes nothing. -/
theorem emitStep_eq_next {byte : Except Fault Byte} {advance : State → State} {s t : State} :
    emitStep byte advance s = .next t ↔
      (∃ b, byte = .ok b) ∧
      ((s.input.snkErr = true ∧ t = s.complete .errSink s.sinkCode) ∨
       (s.input.snkErr = false ∧ s.input.snkReady = true ∧ s.ocount.toNat < 255 ∧
        t = advance { s with ocount := s.ocount + 1#8 }) ∨
       (s.input.snkErr = false ∧ s.input.snkReady = false ∧ t = s)) := by
  unfold emitStep
  cases byte with
  | error e => simp
  | ok b =>
    cases he : s.input.snkErr
    · cases hr : s.input.snkReady
      · constructor
        · rintro ⟨⟩; exact ⟨⟨b, rfl⟩, .inr (.inr ⟨rfl, rfl, rfl⟩)⟩
        · rintro ⟨-, ⟨h, -⟩ | ⟨-, h, -⟩ | ⟨-, -, rfl⟩⟩
          · cases h
          · cases h
          · rfl
      · by_cases hc : s.ocount.toNat < 255
        · have hok : s.countByte = .ok { s with ocount := s.ocount + 1#8 } := State.countByte_eq_ok.mpr ⟨hc, rfl⟩
          simp only [hok]
          constructor
          · rintro ⟨⟩; exact ⟨⟨b, rfl⟩, .inr (.inl ⟨trivial, trivial, hc, rfl⟩)⟩
          · rintro ⟨-, ⟨h, -⟩ | ⟨-, -, -, rfl⟩ | ⟨-, h, -⟩⟩
            · cases h
            · rfl
            · cases h
        · simp [State.countByte, hc]
    · constructor
      · rintro ⟨⟩; exact ⟨⟨b, rfl⟩, .inl ⟨rfl, rfl⟩⟩
      · rintro ⟨-, ⟨-, rfl⟩ | ⟨h, -⟩ | ⟨h, -⟩⟩
        · rfl
        · cases h
        · cases h

@[simp] theorem State.input_withInput (s : State) (i : Inputs) : (s.withInput i).input = i := rfl

@[simp] theorem State.input_clearDone (s : State) : s.clearDone.input = s.input := rfl

end Sys2Proof.Machine
end

