-- ==== Sys2Proof/Laws/PerInstr.lean ====
section
/-! SUPPORT. The family EncodeFits, made per instruction: an instruction's word has no bit above its format's width. -/

namespace Sys2Proof.Laws.EncodeFits

/-- The word of an instruction fits the width of its format (30_encoding.md R70, R78). -/
def Statement (i : Instr) : Prop := (encode i).bits < 2 ^ (encode i).width

/-- A command word fits W + 7 bits. -/
theorem commandWord_fits {n : Nat} (s : Bool) (f : BitVec 6) (raw : BitVec n) :
    (commandWord s f raw).bits < 2 ^ (commandWord s f raw).width :=
  lt_of_lt_of_eq ((BitVec.ofBool s ++ f) ++ raw).isLt (congrArg (2 ^ ·) (by simp only [commandWord]; omega))

theorem fmtU8 (raw : BitVec 8) (f : BitVec 6) : Statement (.fmtU8 raw f) := commandWord_fits _ _ _
theorem fmtS8 (raw : BitVec 8) (f : BitVec 6) : Statement (.fmtS8 raw f) := commandWord_fits _ _ _
theorem illegalFbits8 (raw : BitVec 8) (f : BitVec 6) (s : Bool) : Statement (.illegalFbits8 raw f s) := commandWord_fits _ _ _
theorem fmtU16 (raw : BitVec 16) (f : BitVec 6) : Statement (.fmtU16 raw f) := commandWord_fits _ _ _
theorem fmtS16 (raw : BitVec 16) (f : BitVec 6) : Statement (.fmtS16 raw f) := commandWord_fits _ _ _
theorem illegalFbits16 (raw : BitVec 16) (f : BitVec 6) (s : Bool) : Statement (.illegalFbits16 raw f s) := commandWord_fits _ _ _
theorem fmtU32 (raw : BitVec 32) (f : BitVec 6) : Statement (.fmtU32 raw f) := commandWord_fits _ _ _
theorem fmtS32 (raw : BitVec 32) (f : BitVec 6) : Statement (.fmtS32 raw f) := commandWord_fits _ _ _
theorem illegalFbits32 (raw : BitVec 32) (f : BitVec 6) (s : Bool) : Statement (.illegalFbits32 raw f s) := commandWord_fits _ _ _
theorem phaseIdle : Statement .phaseIdle := by unfold Statement; decide
theorem phaseResolve : Statement .phaseResolve := by unfold Statement; decide
theorem phaseIntdig : Statement .phaseIntdig := by unfold Statement; decide
theorem phaseFracdig : Statement .phaseFracdig := by unfold Statement; decide
theorem phaseEmitSign : Statement .phaseEmitSign := by unfold Statement; decide
theorem phaseEmitInt : Statement .phaseEmitInt := by unfold Statement; decide
theorem phaseEmitPoint : Statement .phaseEmitPoint := by unfold Statement; decide
theorem phaseEmitFrac : Statement .phaseEmitFrac := by unfold Statement; decide

end Sys2Proof.Laws.EncodeFits
end

