-- ==== Sys2Proof/Laws/Step.lean ====
section
/-! SUPPORT. What the meanings of the phases and one step can do, said once. -/

namespace Sys2Proof.Machine

theorem exec_idle_eq_next {s t : State} :
    exec .phaseIdle s = .next t ↔
      (s.input.cmdValid = true ∧ s.portFbits.toNat ≤ s.cfg.w ∧ t = s.accept s.portRaw s.portFbits s.portSigned) ∨
      (s.input.cmdValid = true ∧ s.cfg.w < s.portFbits.toNat ∧ t = s.reject) ∨
      (s.input.cmdValid = false ∧ t = { s with phase := .idle }) := by
  simp only [exec, execPhaseIdle]
  cases s.input.cmdValid
  · simp [eq_comm]
  · simp only [if_true]
    split_ifs with h
    · have : ¬ s.cfg.w < s.portFbits.toNat := by omega
      simp [h, this, eq_comm]
    · have : s.cfg.w < s.portFbits.toNat := by omega
      simp [h, this, eq_comm]

/-- Finishing INTDIG: the sign byte if the polarity is negative, then FRACDIG. -/
theorem finishIntdig_eq_next {s t : State} :
    finishIntdig s = .next t ↔
      (s.pol = false ∧ t = { s with phase := .fracdig }) ∨
      (s.pol = true ∧ 0 < s.istart.toNat ∧ s.istart.toNat - 1 < s.cfg.ib ∧ t = s.withSign) := by
  unfold finishIntdig
  cases hp : s.pol
  · simp [eq_comm]
  · by_cases hg : 0 < s.istart.toNat ∧ s.istart.toNat - 1 < s.cfg.ib
    · simp only [if_true, State.pushIbuf, if_pos hg]
      constructor
      · rintro ⟨⟩; exact .inr ⟨trivial, hg.1, hg.2, rfl⟩
      · rintro (⟨h, -⟩ | ⟨-, -, -, rfl⟩)
        · cases h
        · rfl
    · simp only [if_true, State.pushIbuf, if_neg hg]
      constructor
      · rintro ⟨⟩
      · rintro (⟨h, -⟩ | ⟨-, h1, h2, -⟩)
        · cases h
        · exact absurd ⟨h1, h2⟩ hg

/-- INTDIG: one digit below the used region; the end of the phase, or more digits. -/
theorem exec_intdig_eq_next {s t : State} :
    exec .phaseIntdig s = .next t ↔
      0 < s.istart.toNat ∧ s.istart.toNat - 1 < s.cfg.ib ∧
      ((s.irem.toNat / 10 = 0 ∧ finishIntdig s.withIntDigit = .next t) ∨
       (s.irem.toNat / 10 ≠ 0 ∧ t = s.withIntDigit)) := by
  simp only [exec, execPhaseIntdig]
  by_cases hg : 0 < s.istart.toNat ∧ s.istart.toNat - 1 < s.cfg.ib
  · simp only [State.pushIbuf, if_pos hg]
    by_cases hq : s.irem.toNat / 10 = 0
    · rw [if_pos hq]
      exact ⟨fun h => ⟨hg.1, hg.2, .inl ⟨hq, h⟩⟩, fun h => h.2.2.elim (·.2) fun h' => absurd hq h'.1⟩
    · rw [if_neg hq]
      constructor
      · rintro ⟨⟩; exact ⟨hg.1, hg.2, .inr ⟨hq, rfl⟩⟩
      · rintro ⟨-, -, ⟨h, -⟩ | ⟨-, rfl⟩⟩
        · exact absurd h hq
        · rfl
  · simp only [State.pushIbuf, if_neg hg]
    exact ⟨fun h => (by cases h), fun h => absurd ⟨h.1, h.2.1⟩ hg⟩

/-- FRACDIG: one digit above the used region; the first emission phase, or more digits. -/
theorem exec_fracdig_eq_next {s t : State} :
    exec .phaseFracdig s = .next t ↔
      s.fcnt.toNat < s.cfg.k ∧
      (((nextRemainder s.cfg.width s.frem.toNat s.fb.toNat = 0 ∨ s.fcnt.toNat + 1 = s.cfg.k) ∧
          t = { s.withFracDigit with
            ecur := s.istart.setWidth 7, phase := if s.pol then .emitSign else .emitInt }) ∨
       (¬(nextRemainder s.cfg.width s.frem.toNat s.fb.toNat = 0 ∨ s.fcnt.toNat + 1 = s.cfg.k) ∧
          t = s.withFracDigit)) := by
  simp only [exec, execPhaseFracdig]
  by_cases hg : s.fcnt.toNat < s.cfg.k
  · simp only [State.pushFbuf, if_pos hg, State.fcnt_add_toNat hg]
    by_cases hq : nextRemainder s.cfg.width s.frem.toNat s.fb.toNat = 0 ∨ s.fcnt.toNat + 1 = s.cfg.k
    · rw [if_pos hq]
      constructor
      · rintro ⟨⟩; exact ⟨hg, .inl ⟨hq, rfl⟩⟩
      · rintro ⟨-, ⟨-, rfl⟩ | ⟨h, -⟩⟩
        · rfl
        · exact absurd hq h
    · rw [if_neg hq]
      constructor
      · rintro ⟨⟩; exact ⟨hg, .inr ⟨hq, rfl⟩⟩
      · rintro ⟨-, ⟨h, -⟩ | ⟨-, rfl⟩⟩
        · exact absurd h hq
        · rfl
  · simp only [State.pushFbuf, if_neg hg]
    exact ⟨fun h => (by cases h), fun h => absurd h.1 hg⟩

theorem step_of_rst {s : State} (h : s.input.rst = true) : step s = .next s.resetStep.nextSample := by
  simp [step, h]

theorem step_of_not_rst {s : State} (h : s.input.rst = false) :
    step s = afterNext State.nextSample (exec s.fetch s.clearDone) := by
  simp [step, h]

/-- A step that answers a next state: the reset step, or the instruction of this step after DONE <- 0. -/
theorem step_eq_next {s t : State} :
    step s = .next t ↔
      (s.input.rst = true ∧ t = s.resetStep.nextSample) ∨
      (s.input.rst = false ∧ ∃ u, exec s.fetch s.clearDone = .next u ∧ t = u.nextSample) := by
  cases h : s.input.rst
  · simp [step_of_not_rst h, afterNext_eq_next]
  · simp [step_of_rst h, eq_comm]

theorem fetch_of_phase {s : State} (h : s.phase ≠ .idle) : s.fetch = s.phase.instr := by
  simp [State.fetch, h]

theorem fetch_of_no_command {s : State} (h : s.input.cmdValid = false) : s.fetch = s.phase.instr := by
  simp [State.fetch, h]

theorem run_succ_of_step {n : Nat} {s t : State} (h : step s = .next t) : run (n + 1) s = run n t := by
  simp [run, h]

theorem sends_succ_of_step {n : Nat} {s t : State} (h : step s = .next t) :
    sends (n + 1) s = s.transferred ++ sends n t := by
  simp [sends, h]

end Sys2Proof.Machine
end

