-- ==== Sys2Proof/Tests/Slice0.lean ====
section
/-! SUPPORT. Tests by kernel evaluation: the well-formedness smoke test, decoding of written out words, one step per
instruction with the results of 95_test_vectors.md and of the rules' own examples, and a witness for every statement
that has hypotheses. -/

namespace Sys2Proof.Tests

open Sys2Proof.Machine

/-! ### Helpers -/

/-- The next state of an outcome, if it is one. -/
def nextOf : Host.Outcome State Fault Refusal → Option State
  | .next s => some s
  | _ => none

/-- K = 6 and EW = 8, for each W: the configurations of 95_test_vectors.md. -/
def cfg8 : Config := Config.standard.withWidth .w8
def cfg16 : Config := Config.standard.withWidth .w16
def cfg32 : Config := Config.standard.withWidth .w32

/-- A step's inputs: a command offered; the sink's answer. -/
def offer (w : BitVec 39) : Inputs := { Inputs.quiet with cmdValid := true, cmdWord := w }
def sink (ready err : Bool) (code : Word) : Inputs :=
  { Inputs.quiet with snkReady := ready, snkErr := err, snkCode := code }
def ready : Inputs := sink true false 0#32

/-- The reset state of a configuration in a phase, with these inputs ahead. -/
def inPhase (c : Config) (p : Phase) (l : List Inputs) : State := { State.resetOf c l with phase := p }

/-! ### Well-formedness: each check refuses a term, and takes its neighbour -/

theorem test_wf_refuses :
    (Instr.fmtU8 0#8 9#6).wf = false ∧ (Instr.fmtS8 0#8 9#6).wf = false ∧
    (Instr.illegalFbits8 0#8 8#6 true).wf = false ∧ (Instr.fmtU16 0#16 17#6).wf = false ∧
    (Instr.fmtS16 0#16 17#6).wf = false ∧ (Instr.illegalFbits16 0#16 16#6 true).wf = false ∧
    (Instr.fmtU32 0#32 33#6).wf = false ∧ (Instr.fmtS32 0#32 33#6).wf = false ∧
    (Instr.illegalFbits32 0#32 32#6 true).wf = false := by decide

theorem test_wf_takes :
    (Instr.fmtU8 0#8 8#6).wf = true ∧ (Instr.fmtS8 0#8 8#6).wf = true ∧
    (Instr.illegalFbits8 0#8 9#6 true).wf = true ∧ (Instr.fmtU16 0#16 16#6).wf = true ∧
    (Instr.fmtS16 0#16 16#6).wf = true ∧ (Instr.illegalFbits16 0#16 17#6 true).wf = true ∧
    (Instr.fmtU32 0#32 32#6).wf = true ∧ (Instr.fmtS32 0#32 32#6).wf = true ∧
    (Instr.illegalFbits32 0#32 33#6 true).wf = true ∧ Instr.phaseIdle.wf = true := by decide

/-! ### Decoding: words written out from R70 (S, FBITS, RAW) and R78 -/

theorem test_decode_fmtU8 : decode ⟨15, 0b0_000100_11111111⟩ = .ok (.fmtU8 255#8 4#6) := rfl
theorem test_decode_fmtS8 : decode ⟨15, 0b1_000000_10000000⟩ = .ok (.fmtS8 128#8 0#6) := rfl
theorem test_decode_illegalFbits8 : decode ⟨15, 0b0_001001_00000000⟩ = .ok (.illegalFbits8 0#8 9#6 false) := rfl
theorem test_decode_fmtU16 : decode ⟨23, 0b0_010000_1000000000000000⟩ = .ok (.fmtU16 32768#16 16#6) := rfl
theorem test_decode_fmtS16 : decode ⟨23, 0b1_010000_1111111111111111⟩ = .ok (.fmtS16 65535#16 16#6) := rfl
theorem test_decode_illegalFbits16 :
    decode ⟨23, 0b1_010001_0000000000000001⟩ = .ok (.illegalFbits16 1#16 17#6 true) := rfl
theorem test_decode_fmtU32 :
    decode ⟨39, 0b0_000000_11111111111111111111111111111111⟩ = .ok (.fmtU32 4294967295#32 0#6) := rfl
theorem test_decode_fmtS32 :
    decode ⟨39, 0b1_011111_10000000000000000000000000000000⟩ = .ok (.fmtS32 2147483648#32 31#6) := rfl
theorem test_decode_illegalFbits32 :
    decode ⟨39, 0b0_100001_00000000000000000000000000000000⟩ = .ok (.illegalFbits32 0#32 33#6 false) := rfl
theorem test_decode_phases :
    decode ⟨3, 0b000⟩ = .ok .phaseIdle ∧ decode ⟨3, 0b001⟩ = .ok .phaseResolve ∧
    decode ⟨3, 0b010⟩ = .ok .phaseIntdig ∧ decode ⟨3, 0b011⟩ = .ok .phaseFracdig ∧
    decode ⟨3, 0b100⟩ = .ok .phaseEmitSign ∧ decode ⟨3, 0b101⟩ = .ok .phaseEmitInt ∧
    decode ⟨3, 0b110⟩ = .ok .phaseEmitPoint ∧ decode ⟨3, 0b111⟩ = .ok .phaseEmitFrac :=
  ⟨rfl, rfl, rfl, rfl, rfl, rfl, rfl, rfl⟩

theorem test_decode_refuses :
    decode ⟨4, 0⟩ = .error (.noSuchFormat 4) ∧ decode ⟨3, 8⟩ = .error (.tooWide 3 8) ∧
    decode ⟨15, 2 ^ 15⟩ = .error (.tooWide 15 (2 ^ 15)) := ⟨rfl, rfl, rfl⟩

theorem test_decodeTableWord :
    decodeTableWord 16 0x4080 = some (.fmtS8 128#8 0#6) ∧ decodeTableWord 24 0x108000 = some (.fmtU16 32768#16 16#6) ∧
    decodeTableWord 40 0x5F80000000 = some (.fmtS32 2147483648#32 31#6) ∧
    decodeTableWord 8 5 = some .phaseEmitInt ∧ decodeTableWord 8 8 = none := by decide

/-- The two examples of R77. -/
theorem test_assemble :
    (assembleLine .w16 "FMT.U 32768, 16".toList = some ⟨23, 0x108000⟩) ∧
    (assembleLine .w16 "FMT.S -1, 16".toList = some ⟨23, 0x50FFFF⟩) ∧
    (assembleLine .w8 "FMT.U 0x1A, 8".toList = some ⟨15, 0x081A⟩) ∧
    (assembleLine .w8 "FMT.U -1, 0".toList = none) ∧ (assembleLine .w8 "FMT.S -0, 0".toList = none) := by decide

/-! ### Commands, one step each -/

/-- What acceptance latches, and where it leads. -/
def latched (o : Host.Outcome State Fault Refusal) : Option (Word × BitVec 6 × Bool × BitVec 4 × Phase) :=
  (nextOf o).map fun t => (t.raw, t.fb, t.sgn, t.istart, t.phase)

/-- The outcome registers. -/
def outcome (o : Host.Outcome State Fault Refusal) : Option (ResultCode × Word × BitVec 8 × Bool × Phase) :=
  (nextOf o).map fun t => (t.result, t.errcode, t.ocount, t.done, t.phase)

/-- P2 step 15. -/
theorem test_fmtU8 : latched (step (State.resetOf cfg8 [offer 0x04FF])) = some (0xFF#32, 4#6, false, 4#4, .resolve) := by
  decide
/-- P2 step 2. -/
theorem test_fmtS8 : latched (step (State.resetOf cfg8 [offer 0x4080])) = some (0x80#32, 0#6, true, 4#4, .resolve) := by
  decide
/-- P2 step 1, R103's example. -/
theorem test_illegalFbits8 :
    outcome (step (State.resetOf cfg8 [offer 0x0900])) = some (.errFbits, 0#32, 0#8, true, .idle) := by decide
/-- R101's example. -/
theorem test_fmtU16 :
    latched (step (State.resetOf cfg16 [offer 0x108000])) = some (0x8000#32, 16#6, false, 6#4, .resolve) := by decide
/-- P4 step 1. -/
theorem test_fmtS16 :
    latched (step (State.resetOf cfg16 [offer 0x50FFFF])) = some (0xFFFF#32, 16#6, true, 6#4, .resolve) := by decide
/-- R103 with FBITS = 17; the latches keep the previous command. -/
theorem test_illegalFbits16 :
    latched (step { State.resetOf cfg16 [offer 0x110001] with raw := 5#32, fb := 3#6, ocount := 9#8 }) =
      some (5#32, 3#6, false, 0#4, .idle) := by decide
/-- P3 step 8. -/
theorem test_fmtU32 :
    latched (step (State.resetOf cfg32 [offer 0x00FFFFFFFF])) = some (0xFFFFFFFF#32, 0#6, false, 11#4, .resolve) := by
  decide
/-- P3 step 1. -/
theorem test_fmtS32 :
    latched (step (State.resetOf cfg32 [offer 0x5F80000000])) = some (0x80000000#32, 31#6, true, 11#4, .resolve) := by
  decide
/-- R103 with FBITS = 63, S = 1. -/
theorem test_illegalFbits32 :
    outcome (step { State.resetOf cfg32 [offer 0x7F00000000] with ocount := 9#8 }) =
      some (.errFbits, 0#32, 0#8, true, .idle) := by decide

/-! ### Phases, one step each -/

/-- R102's example. -/
theorem test_phaseIdle :
    outcome (step { State.resetOf cfg16 [] with result := .ok, ocount := 8#8, done := true }) =
      some (.ok, 0#32, 8#8, false, .idle) := by decide

/-- R120's example. -/
theorem test_phaseResolve :
    (nextOf (exec .phaseResolve { inPhase cfg8 .resolve [] with raw := 0x80#32, sgn := true })).map
      (fun t => (t.mag, t.pol, t.irem, t.frem, t.phase)) = some (0x80#32, true, 128#32, 0#32, .intdig) := by decide
/-- P3 step 23: MAG = 2^32 - 0xFFFE6DE1. -/
theorem test_phaseResolve_negates :
    (nextOf (exec .phaseResolve
        { inPhase cfg32 .resolve [] with raw := 0xFFFE6DE1#32, fb := 16#6, sgn := true })).map
      (fun t => (t.mag, t.pol, t.irem, t.frem)) = some (0x1921F#32, true, 1#32, 37407#32) := by decide

/-- P2 step 6: the last digit and the sign. -/
theorem test_phaseIntdig :
    (nextOf (exec .phaseIntdig
        { inPhase cfg8 .intdig [] with irem := 1#32, pol := true, istart := 2#4, ibuf := [(2, 0x32#8), (3, 0x38#8)] })).map
      (fun t => (t.irem, t.istart, t.ibuf.slice 0 4, t.phase)) =
        some (0#32, 0#4, [0x2D#8, 0x31#8, 0x32#8, 0x38#8], .fracdig) := by decide

/-- R160's example: F = W, with the pre-shift. -/
theorem test_phaseFracdig :
    (nextOf (exec .phaseFracdig
        { inPhase cfg16 .fracdig [] with fb := 16#6, frem := 32768#32, istart := 5#4 })).map
      (fun t => (t.fbuf.get 0, t.fcnt, t.frem, t.ecur, t.phase)) = some (0x35#8, 1#7, 0#32, 5#7, .emitInt) := by decide
/-- P3 step 30: the K-th digit ends the phase, with POL = 1. -/
theorem test_phaseFracdig_last :
    (nextOf (exec .phaseFracdig
        { inPhase cfg32 .fracdig [] with
          fb := 16#6, frem := 36192#32, fcnt := 5#7, istart := 9#4, pol := true })).map
      (fun t => (t.fbuf.get 5, t.fcnt, t.frem, t.ecur, t.phase)) = some (0x35#8, 6#7, 34240#32, 9#7, .emitSign) := by
  decide

/-- Cursor, count and phase after an emission step. -/
def cursor (o : Host.Outcome State Fault Refusal) : Option (BitVec 7 × BitVec 8 × Phase) :=
  (nextOf o).map fun t => (t.ecur, t.ocount, t.phase)

/-- P2 step 9. -/
theorem test_phaseEmitSign : cursor (step (inPhase cfg8 .emitSign [ready])) = some (1#7, 1#8, .emitInt) := by decide
/-- P2 step 8, a stall. -/
theorem test_phaseEmitSign_stall :
    cursor (step (inPhase cfg8 .emitSign [Inputs.quiet])) = some (0#7, 0#8, .emitSign) := by decide
/-- P2 step 12. -/
theorem test_phaseEmitInt :
    cursor (step { inPhase cfg8 .emitInt [ready] with ecur := 3#7, ocount := 3#8 }) = some (4#7, 4#8, .emitPoint) := by
  decide
/-- P3 step 21: the failure wins over the acceptance. -/
theorem test_phaseEmitInt_fails :
    outcome (step { inPhase cfg32 .emitInt [sink true true 7#32] with ecur := 1#7 }) =
      some (.errSink, 7#32, 0#8, true, .idle) := by decide
/-- P2 step 13. -/
theorem test_phaseEmitPoint :
    cursor (step { inPhase cfg8 .emitPoint [ready] with ecur := 4#7, ocount := 4#8 }) = some (0#7, 5#8, .emitFrac) := by
  decide
/-- P3 step 7. -/
theorem test_phaseEmitPoint_fails :
    outcome (step { inPhase cfg32 .emitPoint [sink false true 0x5A#32] with ocount := 2#8 }) =
      some (.errSink, 0x5A#32, 2#8, true, .idle) := by decide
/-- P2 step 29. -/
theorem test_phaseEmitFrac :
    outcome (step { inPhase cfg8 .emitFrac [ready] with ecur := 3#7, fcnt := 4#7, ocount := 6#8 }) =
      some (.ok, 0#32, 7#8, true, .idle) := by decide
/-- P2 step 26. -/
theorem test_phaseEmitFrac_goesOn :
    cursor (step { inPhase cfg8 .emitFrac [ready] with fcnt := 4#7, ocount := 3#8 }) = some (1#7, 4#8, .emitFrac) := by
  decide

/-- The status words of P2 and P3 (steps 30 and 7). -/
theorem test_status :
    ({ State.resetOf cfg8 [] with ocount := 7#8, result := .ok } : State).status.toNat = 0x000704 ∧
    ({ State.resetOf cfg32 [] with ocount := 2#8, result := .errSink, errcode := 0x5A#32, done := true } :
      State).status.toNat = 0x005A020E := by decide

/-- R168's first counterexample, "0.001562", and R124's "-0.5" at F = W. -/
theorem test_format :
    format cfg8 26 8 false = [0x30#8, 0x2E#8, 0x30#8, 0x30#8, 0x31#8, 0x35#8, 0x36#8, 0x32#8] ∧
    format cfg8 0x80 8 true = [0x2D#8, 0x30#8, 0x2E#8, 0x35#8] := by decide

/-! ### What the host places runs as the first instruction after reset -/

theorem test_withFetchWord_command :
    latched (step (State.reset.withFetchWord 16 0x4080)) = some (0x80#32, 0#6, true, 4#4, .resolve) ∧
    outcome (step (State.reset.withFetchWord 24 0x110000)) = some (.errFbits, 0#32, 0#8, true, .idle) ∧
    latched (step (State.reset.withFetchWord 40 0x00FFFFFFFF)) = some (0xFFFFFFFF#32, 0#6, false, 11#4, .resolve) :=
  ⟨by decide, by decide, by decide⟩

theorem test_withFetchWord_phase :
    ((List.range 8).map fun c =>
      ((State.reset.withFetchWord 8 c).fetch, (nextOf (step (State.reset.withFetchWord 8 c))).isSome)) =
      [(.phaseIdle, true), (.phaseResolve, true), (.phaseIntdig, true), (.phaseFracdig, true), (.phaseEmitSign, true),
        (.phaseEmitInt, true), (.phaseEmitPoint, true), (.phaseEmitFrac, true)] := by decide

/-! ### Witnesses: the states of `FMT.S -24, 4` ("-1.5") with W = 8, one for each phase -/

/-- After a rejected command: IDLE with an outcome. -/
def atIdle : State := { State.resetOf cfg8 [offer 0x44E8] with result := .errFbits, done := true }
def atResolve : State := { inPhase cfg8 .resolve [] with raw := 0xE8#32, fb := 4#6, sgn := true, istart := 4#4 }
def atIntdig : State := { atResolve with mag := 24#32, pol := true, irem := 1#32, frem := 8#32, phase := .intdig }
def atFracdig : State :=
  { atIntdig with irem := 0#32, ibuf := [(2, 0x2D#8), (3, 0x31#8)], istart := 2#4, phase := .fracdig }
def atEmitSign : State :=
  { atFracdig with frem := 0#32, fbuf := [(0, 0x35#8)], fcnt := 1#7, ecur := 2#7, phase := .emitSign, script := [ready] }
def atEmitInt : State := { atEmitSign with ecur := 3#7, ocount := 1#8, phase := .emitInt }
def atEmitPoint : State := { atEmitSign with ecur := 4#7, ocount := 2#8, phase := .emitPoint }
def atEmitFrac : State := { atEmitSign with ecur := 0#7, ocount := 3#8, phase := .emitFrac }

theorem inv_atIdle : atIdle.Inv :=
  ⟨by decide, by decide, (by decide : atIdle.ocount.toNat ≤ atIdle.cfg.ib + 1 + atIdle.cfg.k ∧
    (atIdle.done = true → atIdle.result ≠ .none) ∧ (atIdle.result ≠ .errSink → atIdle.errcode = 0#32))⟩
theorem inv_atResolve : atResolve.Inv :=
  ⟨by decide, by decide, (by decide : atResolve.flightOk ∧ atResolve.resolveOk)⟩
theorem inv_atIntdig : atIntdig.Inv := ⟨by decide, by decide, (by decide : atIntdig.flightOk ∧ atIntdig.intdigOk)⟩
theorem inv_atFracdig : atFracdig.Inv :=
  ⟨by decide, by decide, (by decide : atFracdig.flightOk ∧ atFracdig.fracdigOk)⟩
theorem inv_atEmitSign : atEmitSign.Inv :=
  ⟨by decide, by decide, (by decide : atEmitSign.flightOk ∧ atEmitSign.emitOk ∧ atEmitSign.pol = true ∧
    atEmitSign.ecur.toNat = atEmitSign.istart.toNat ∧ atEmitSign.ocount = 0#8)⟩
theorem inv_atEmitInt : atEmitInt.Inv :=
  ⟨by decide, by decide, (by decide : atEmitInt.flightOk ∧ atEmitInt.emitOk ∧
    atEmitInt.istart.toNat + atEmitInt.pol.toNat ≤ atEmitInt.ecur.toNat ∧ atEmitInt.ecur.toNat < atEmitInt.cfg.ib ∧
    atEmitInt.ocount.toNat = atEmitInt.ecur.toNat - atEmitInt.istart.toNat)⟩
theorem inv_atEmitPoint : atEmitPoint.Inv :=
  ⟨by decide, by decide, (by decide : atEmitPoint.flightOk ∧ atEmitPoint.emitOk ∧
    atEmitPoint.ocount.toNat = atEmitPoint.cfg.ib - atEmitPoint.istart.toNat)⟩
theorem inv_atEmitFrac : atEmitFrac.Inv :=
  ⟨by decide, by decide, (by decide : atEmitFrac.flightOk ∧ atEmitFrac.emitOk ∧
    atEmitFrac.ecur.toNat < atEmitFrac.fcnt.toNat ∧
    atEmitFrac.ocount.toNat = atEmitFrac.cfg.ib - atEmitFrac.istart.toNat + 1 + atEmitFrac.ecur.toNat)⟩

/-- StepKeepsInv, SafeStateStepsOn and every statement with `step s = .next t`: a safe state that steps, in each phase. -/
theorem witness_safeSteps :
    ∃ l : List State, l.map (fun s => s.phase) =
        [.idle, .resolve, .intdig, .fracdig, .emitSign, .emitInt, .emitPoint, .emitFrac] ∧
      ∀ s ∈ l, s.Inv ∧ s.input.rst = false ∧ ∃ t, step s = .next t := by
  refine ⟨[atIdle, atResolve, atIntdig, atFracdig, atEmitSign, atEmitInt, atEmitPoint, atEmitFrac], rfl, ?_⟩
  simp only [List.forall_mem_cons, List.not_mem_nil, false_implies, implies_true, and_true]
  exact ⟨⟨inv_atIdle, rfl, _, rfl⟩, ⟨inv_atResolve, rfl, _, rfl⟩, ⟨inv_atIntdig, rfl, _, rfl⟩,
    ⟨inv_atFracdig, rfl, _, rfl⟩, ⟨inv_atEmitSign, rfl, _, rfl⟩, ⟨inv_atEmitInt, rfl, _, rfl⟩,
    ⟨inv_atEmitPoint, rfl, _, rfl⟩, ⟨inv_atEmitFrac, rfl, _, rfl⟩⟩

/-- StepKeepsOnTrack, OfferedByteIsNextOfFormat, OfferedByteIsText: those states are on track, the last four offer a
byte, one of each segment. -/
theorem witness_onTrack :
    (∀ s ∈ [atIdle, atResolve, atIntdig, atFracdig, atEmitSign, atEmitInt, atEmitPoint, atEmitFrac],
      s.phase ≠ .idle → s.pending = (format s.cfg s.raw.toNat s.fb.toNat s.sgn).drop s.ocount.toNat) ∧
    [atEmitSign, atEmitInt, atEmitPoint, atEmitFrac].map (fun s => (s.outValid, s.outSeg)) =
      [(true, 0#2), (true, 1#2), (true, 2#2), (true, 3#2)] := by decide

/-- SegmentMarkersMarkTheEnds: a byte is taken, at a segment's end and (W = 8, "0.25" after '2') inside one. -/
theorem witness_segmentMarkers :
    atEmitFrac.transferred ≠ [] ∧ (nextOf (step atEmitFrac)).isSome = true ∧
    ({ atEmitFrac with fcnt := 2#7 } : State).transferred ≠ [] ∧
    (nextOf (step { atEmitFrac with fcnt := 2#7 })).isSome = true := by decide

/-! ### Witnesses: encodings -/

theorem witness_DecodeEncodeGivesInstrBack :
    (Instr.fmtU8 255#8 8#6).wf = true ∧ (Instr.illegalFbits32 0#32 63#6 true).wf = true ∧
    Instr.phaseEmitFrac.wf = true := by decide
theorem witness_DecodedWordIsInstrsOwnWord : ∃ c i, decode c = .ok i := ⟨⟨15, 2 ^ 15 - 1⟩, _, rfl⟩
theorem witness_CommandWordFieldsDecode : 2 ^ 15 - 1 < 2 ^ 15 ∧ 2 ^ 23 - 1 < 2 ^ 23 ∧ 2 ^ 39 - 1 < 2 ^ 39 := by decide
/-- A word that is in its row, and one whose FBITS put it outside. -/
theorem witness_MatchRowsDecideVariant :
    ∃ r ∈ matchRows, 0x4880 < 2 ^ r.width.cw ∧ r.hits 0x4880 = true ∧ r.hits 0x4980 = false := by decide
/-- The ends of each range of literals. -/
theorem witness_AssembledCommandWord :
    255 < 2 ^ Width.w8.bits ∧ 63 ≤ 63 ∧ 128 ≤ 2 ^ (Width.w8.bits - 1) ∧ 2 ^ (Width.w8.bits - 1) < 129 ∧
    2 ^ Width.w8.bits ≤ (256 : Int) ∧ 63 < 64 := by decide
theorem witness_IllegalParametersAreRefused :
    ¬((8 = 8 ∨ 8 = 16 ∨ 8 = 32) ∧ 1 ≤ 65 ∧ 65 ≤ 64 ∧ 1 ≤ 1 ∧ 1 ≤ 32) ∧
    ((32 = 8 ∨ 32 = 16 ∨ 32 = 32) ∧ 1 ≤ 64 ∧ 64 ≤ 64 ∧ 1 ≤ 32 ∧ 32 ≤ 32) := by decide

/-! ### Witnesses: commands -/

/-- FmtCommandsAreAccepted and IllegalFbitsAreRejected: each W, at the bound of FBITS. -/
theorem witness_commandsInIdle :
    [cfg8, cfg16, cfg32].map (fun c => ((State.resetOf c []).phase, (State.resetOf c []).cfg.width)) =
      [(.idle, .w8), (.idle, .w16), (.idle, .w32)] ∧
    (8#6).toNat ≤ 8 ∧ (16#6).toNat ≤ 16 ∧ (32#6).toNat ≤ 32 ∧ 8 < (9#6).toNat ∧ 16 < (17#6).toNat ∧ 32 < (63#6).toNat := by
  decide
/-- BusyCommandIsTurnedAway and OtherWidthCommandIsRefused. -/
theorem witness_commandsElsewhere :
    atIntdig.phase ≠ .idle ∧ atIntdig.cfg.width = .w8 ∧ (inPhase cfg16 .resolve []).phase ≠ .idle ∧
    (inPhase cfg16 .resolve []).cfg.width = .w16 ∧ (inPhase cfg32 .emitFrac []).phase ≠ .idle ∧
    (inPhase cfg32 .emitFrac []).cfg.width = .w32 ∧ (State.resetOf cfg8 []).cfg.width ≠ .w16 ∧
    (State.resetOf cfg8 []).cfg.width ≠ .w32 ∧ (State.resetOf cfg32 []).cfg.width ≠ .w8 := by decide
/-- IdleStepTakesOfferedCommand, IdlePhaseResult, IdlePhaseIsDecodedCommand, OperandLatchesHold, BufferWritesAreTheRules,
OcountCountsAcceptedBytes, DoneMarksCompletionSteps: no command, one with FBITS = W, one with FBITS = W + 1. -/
theorem witness_idleClauses :
    (State.resetOf cfg8 []).input.cmdValid = false ∧ (State.resetOf cfg8 []).input.rst = false ∧
    (State.resetOf cfg8 [offer 0x0800]).input.cmdValid = true ∧
    Spec.fbitsField .w8 (State.resetOf cfg8 [offer 0x0800]).input.cmdWord = cfg8.w ∧
    (State.resetOf cfg8 [offer 0x0900]).input.cmdValid = true ∧
    Spec.fbitsField .w8 (State.resetOf cfg8 [offer 0x0900]).input.cmdWord = cfg8.w + 1 := by decide
theorem witness_BusyStepIgnoresCommandPort : atIntdig.phase ≠ .idle ∧ atEmitFrac.phase ≠ .idle := by decide
/-- CommandForgetsHistory: two different idle states of one configuration, one legal command. -/
theorem witness_CommandForgetsHistory :
    atIdle ≠ { State.resetOf cfg8 [] with script := atIdle.script } ∧ atIdle.cfg = cfg8 ∧ atIdle.phase = .idle ∧
    atIdle.input.rst = false ∧ atIdle.input.cmdValid = true ∧
    Spec.fbitsField atIdle.cfg.width atIdle.input.cmdWord ≤ atIdle.cfg.w := by decide

/-! ### Witnesses: the digit phases -/

/-- ResolveResult: the registers meet R121's domain in each of its cases, at the ends of the cases. -/
theorem witness_ResolveResult :
    ∀ c ∈ [(0xFF, 8, false), (0x7F, 0, true), (0x80, 7, true), (0x80, 8, true), (0x81, 8, true), (0xFF, 0, true)],
      ∃ s : State, s = { inPhase cfg8 .resolve [] with
          raw := BitVec.ofNat 32 c.1, fb := BitVec.ofNat 6 c.2.1, sgn := c.2.2 } ∧
        s.raw.toNat < 2 ^ s.cfg.w ∧ s.fb.toNat ≤ s.cfg.w ∧ s.raw.toNat = c.1 ∧ s.fb.toNat = c.2.1 := by
  intro c hc
  refine ⟨_, rfl, ?_⟩
  revert c
  decide
/-- IntdigResult: the last digit with the sign at index 0, the last digit without it, a digit that is not the last. -/
theorem witness_IntdigResult :
    ∀ c ∈ [(9, 2, true), (9, 1, false), (10, 1, true), (4294967295, 11, false)],
      ∃ s : State, s = { inPhase cfg32 .intdig [] with
          irem := BitVec.ofNat 32 c.1, istart := BitVec.ofNat 4 c.2.1, pol := c.2.2 } ∧
        1 ≤ s.istart.toNat ∧ s.istart.toNat ≤ s.cfg.ib ∧
        (s.irem.toNat / 10 = 0 → s.pol = true → 2 ≤ s.istart.toNat) := by
  intro c hc
  refine ⟨_, rfl, ?_⟩
  revert c
  decide
/-- FracdigResult: with and without the pre-shift (F = 5 and 4 at W = 8), ending and going on, and at FCNT = K - 1. -/
theorem witness_FracdigResult :
    ∀ c ∈ [(5, 16, 0), (4, 3, 0), (4, 8, 0), (8, 255, 5)],
      ∃ s : State, s = { inPhase cfg8 .fracdig [] with
          fb := BitVec.ofNat 6 c.1, frem := BitVec.ofNat 32 c.2.1, fcnt := BitVec.ofNat 7 c.2.2 } ∧
        s.fcnt.toNat < s.cfg.k := by
  intro c hc
  refine ⟨_, rfl, ?_⟩
  revert c
  decide
/-- ResolveIsOneNegator, ResolveKeepsTheValue, ResolveRanges, FormatShape: both polarities at their ends. -/
theorem witness_resolve :
    (0x80 < 2 ^ Width.w8.bits ∧ 8 ≤ Width.w8.bits ∧ (resolveFn .w8 0x80 8 true).pol = true) ∧
    (0x7F < 2 ^ Width.w8.bits ∧ 0 ≤ Width.w8.bits ∧ (resolveFn .w8 0x7F 0 true).pol = false) ∧
    255 < 2 ^ cfg8.w ∧ 8 ≤ cfg8.w := by decide
/-- ResolveRanges' bound on ip at the most negative value, F = 1: 2^7 >> 1, which ip = 64 meets. -/
theorem test_resolveRanges_bound :
    (resolveFn .w8 0x80 1 true).ip = 64 ∧ (2 ^ (Width.w8.bits - 1)) >>> 1 = 64 := by decide
/-- IntDigitsAreTheNumeral: 0 and the longest numeral. -/
theorem witness_IntDigitsAreTheNumeral : 0 < 2 ^ Width.w32.bits ∧ 4294967295 < 2 ^ Width.w32.bits := by decide
/-- FracDigitNeverWraps, RemainderUpdateIsExact, DigitDeficitBound, FracDigitCount, UnshiftedDigitsTruncate: F on both
sides of the headroom condition, with the largest remainder, and a zero remainder. -/
theorem witness_fracDigits :
    (4 ≤ Width.w8.bits ∧ 15 ≤ 2 ^ 4 - 1 ∧ 15 < 2 ^ 4 ∧ 4 + 4 ≤ Width.w8.bits ∧ 4 + 4 ≤ cfg8.w) ∧
    (5 ≤ Width.w8.bits ∧ 31 ≤ 2 ^ 5 - 1 ∧ 31 < 2 ^ 5 ∧ Width.w8.bits < 5 + 4 ∧ 5 ≤ cfg8.w) ∧ 0 < 2 ^ 5 := by decide

/-! ### Witnesses: emission -/

/-- EmitSignResult, EmitIntResult, EmitPointResult, EmitFracResult: the cursor at both ends of its buffer, OCOUNT at
254; the sink fails, accepts and stalls; the last digit and one before it. -/
theorem witness_emitResults :
    (∀ i ∈ [sink true true 5#32, ready, Inputs.quiet], ∀ e ∈ [0, 3],
      let s := { inPhase cfg8 .emitInt [i] with ecur := BitVec.ofNat 7 e, ocount := 254#8 }
      s.ecur.toNat < s.cfg.ib ∧ s.ocount.toNat < 255) ∧
    (∀ e ∈ [4, 5],
      let s := { inPhase cfg8 .emitFrac [ready] with ecur := BitVec.ofNat 7 e, fcnt := 6#7 }
      s.ecur.toNat < s.cfg.k ∧ s.ocount.toNat < 255) := by decide
/-- IndexOutsideBufferFaults: the first index outside, at each end, and OCOUNT at 255. -/
theorem witness_IndexOutsideBufferFaults :
    (∃ s : State, s.cfg.ib ≤ s.ecur.toNat ∧ s.cfg.k ≤ s.ecur.toNat ∧ s.istart.toNat = 0 ∧ s.cfg.k ≤ s.fcnt.toNat) ∧
    (∃ s : State, s.cfg.ib < s.istart.toNat) ∧
    (∃ s : State, s.istart.toNat = 1 ∧ s.irem.toNat < 10 ∧ s.pol = true) ∧
    ∃ s : State, s.ocount.toNat = 255 ∧ s.input.snkErr = false ∧ s.input.snkReady = true ∧
      s.ecur.toNat < s.cfg.ib ∧ s.ecur.toNat < s.cfg.k :=
  ⟨⟨{ inPhase cfg8 .emitFrac [] with ecur := 6#7, fcnt := 6#7 }, by decide⟩,
    ⟨{ inPhase cfg8 .intdig [] with istart := 5#4 }, by decide⟩,
    ⟨{ inPhase cfg8 .intdig [] with istart := 1#4, irem := 9#32, pol := true }, by decide⟩,
    ⟨{ inPhase cfg8 .emitFrac [ready] with ocount := 255#8 }, by decide⟩⟩
/-- OutputPortsFollowState: the phases each clause is about are those of the witness states, with the cursor inside. -/
theorem witness_OutputPortsFollowState :
    (atEmitSign.phase = .emitSign ∧ atEmitSign.ecur.toNat < atEmitSign.cfg.ib) ∧
    (atEmitInt.phase = .emitInt ∧ atEmitInt.ecur.toNat + 1 = atEmitInt.cfg.ib) ∧ atEmitPoint.phase = .emitPoint ∧
    (atEmitFrac.phase = .emitFrac ∧ atEmitFrac.ecur.toNat < atEmitFrac.cfg.k) ∧ atResolve.phase = .resolve ∧
    atEmitFrac.outValid = true := by decide
/-- StallHoldsEverything: two stalled steps of an offered byte. -/
theorem witness_StallHoldsEverything :
    let s := { atEmitSign with script := [Inputs.quiet, Inputs.quiet] ++ [ready] }
    s.outValid = true ∧ s.outByte = .ok 0x2D#8 ∧ s.done = false ∧
      ∀ i ∈ [Inputs.quiet, Inputs.quiet], i.rst = false ∧ i.snkErr = false ∧ i.snkReady = false :=
  ⟨rfl, rfl, rfl, by decide⟩

/-! ### Witnesses: the step, reset, status, whole commands -/

theorem witness_StepRunsDecodedInstruction :
    (∃ i : Instr, i.wf = true ∧ atIdle.phase = .idle ∧ atIdle.input.cmdValid = true ∧ atIdle.input.rst = false ∧
      decode ⟨atIdle.cfg.width.cw, atIdle.input.cmdWord.toNat % 2 ^ atIdle.cfg.width.cw⟩ = .ok i) ∧
    ∃ i : Instr, i.wf = true ∧ ¬(atEmitFrac.phase = .idle ∧ atEmitFrac.input.cmdValid = true) ∧
      atEmitFrac.input.rst = false ∧ decode ⟨3, atEmitFrac.phase.code.toNat⟩ = .ok i :=
  ⟨⟨.fmtS8 0xE8#8 4#6, rfl, rfl, rfl, rfl, rfl⟩, .phaseEmitFrac, rfl, by decide, rfl, rfl⟩
theorem witness_ResetStepResetsEverything :
    ({ atEmitInt with script := [{ ready with rst := true, cmdValid := true }] } : State).input.rst = true := by decide
theorem witness_StatusWordFields :
    ({ atIdle with errcode := 255#32 } : State).errcode.toNat < 2 ^ ({ atIdle with errcode := 255#32 } : State).cfg.ew := by
  decide
/-- UnreadInputsHaveNoEffect: inputs that differ, unread, in IDLE, in a digit phase and in an emission phase. -/
theorem witness_UnreadInputsHaveNoEffect :
    (∃ i j : Inputs, i ≠ j ∧ i.rst = j.rst ∧ i.cmdValid = j.cmdValid ∧ i.cmdValid = true ∧
      i.cmdWord.toNat % 2 ^ cfg8.width.cw = j.cmdWord.toNat % 2 ^ cfg8.width.cw) ∧
    (∃ i j : Inputs, i ≠ j ∧ i.rst = j.rst ∧ atIntdig.phase ≠ .idle ∧ atIntdig.outValid = false) ∧
    ∃ i j : Inputs, i ≠ j ∧ i.rst = j.rst ∧ atEmitInt.outValid = true ∧ i.snkReady = j.snkReady ∧ i.snkErr = j.snkErr ∧
      i.snkErr = true ∧ i.snkCode.toNat % 2 ^ atEmitInt.cfg.ew = j.snkCode.toNat % 2 ^ atEmitInt.cfg.ew :=
  ⟨⟨offer 0x04FF, { offer 0x84FF with snkReady := true }, by decide⟩, ⟨ready, offer 1, by decide⟩,
    ⟨sink true true 5#32, { sink true true 0x105#32 with cmdValid := true }, by decide⟩⟩

/-- `FMT.U 32768, 16` ("0.5") offered to `s`: RESOLVE, one digit each way; a stall; the bytes; `final`. -/
def wholeCommand (acc : List Inputs) (final : Inputs) : State :=
  State.resetOf cfg16 (offer 0x108000 :: ([Inputs.quiet, ready, sink false true 3#32] ++ acc ++ final :: [ready]))

theorem witness_CommandSendsItsFormat :
    let s := wholeCommand [ready, Inputs.quiet, ready] ready
    let r := resolveFn cfg16.width 0x8000 16 false
    s.phase = .idle ∧ Spec.rawField cfg16.width 0x108000#39 = 0x8000 ∧ Spec.fbitsField cfg16.width 0x108000#39 = 16 ∧
      Spec.signedField cfg16.width 0x108000#39 = false ∧ 16 ≤ cfg16.w ∧
      [Inputs.quiet, ready, sink false true 3#32].length = 1 + (intDigits r.ip).length + (fracDigits cfg16 r.fp 16).length ∧
      (∀ i ∈ [Inputs.quiet, ready, sink false true 3#32], i.rst = false) ∧
      (∀ i ∈ [ready, Inputs.quiet, ready], i.rst = false ∧ i.snkErr = false) ∧
      ([ready, Inputs.quiet, ready].filter fun i => i.snkReady).length + 1 = (format cfg16 0x8000 16 false).length ∧
      ready.rst = false ∧ ready.snkErr = false ∧ ready.snkReady = true := by decide
/-- UnstalledStepCount: "0.5" takes the 7 steps of 3 + 0 + 2 + 2 (R238's first example has the same lengths). -/
theorem witness_UnstalledStepCount :
    let s := State.resetOf cfg16 (offer 0x108000 :: (List.replicate 6 ready ++ []))
    let r := resolveFn cfg16.width 0x8000 16 false
    s.phase = .idle ∧ (offer 0x108000).rst = false ∧ (offer 0x108000).cmdValid = true ∧
      Spec.rawField cfg16.width (offer 0x108000).cmdWord = 0x8000 ∧
      Spec.fbitsField cfg16.width (offer 0x108000).cmdWord = 16 ∧
      Spec.signedField cfg16.width (offer 0x108000).cmdWord = false ∧ 16 ≤ cfg16.w ∧
      3 + r.pol.toNat + 2 * (intDigits r.ip).length + 2 * (fracDigits cfg16 r.fp 16).length = 7 ∧
      (List.replicate 6 ready).length + 1 = 7 ∧
      ∀ i ∈ List.replicate 6 ready, i.rst = false ∧ i.snkErr = false ∧ i.snkReady = true := by decide
/-- A failure at the first byte (j = 0) and at the last (j = L - 1). -/
theorem witness_FailedSinkGetsPrefix :
    (wholeCommand [] (sink true true 7#32)).phase = .idle ∧ (sink true true 7#32).snkErr = true ∧
    (([] : List Inputs).filter fun i => i.snkReady).length = 0 ∧ 0 < (format cfg16 0x8000 16 false).length ∧
    ([ready, Inputs.quiet, ready].filter fun i => i.snkReady).length + 1 = (format cfg16 0x8000 16 false).length := by decide

end Sys2Proof.Tests
end

