-- ==== Sys2Proof/Proofs/Scope.lean ====
section
/-! The legal parameters (00_scope.md R4, R5) and the order of the phases (R3). -/

/-! ### Legal parameters -/

namespace Sys2Proof

/-- R4's legal values of W, K and EW. -/
def legalParams (w k ew : Nat) : Prop := (w = 8 ∨ w = 16 ∨ w = 32) ∧ 1 ≤ k ∧ k ≤ 64 ∧ 1 ≤ ew ∧ ew ≤ 32

/-- R5: `Config.ofParams` answers `c` exactly for the parameters of `c`. -/
theorem Config.ofParams_eq_some {w k ew : Nat} {c : Config} :
    Config.ofParams w k ew = some c ↔ c.w = w ∧ c.k = k ∧ c.ew = ew := by
  obtain ⟨wd, k', ew', hk, hew⟩ := c
  constructor
  · intro h
    unfold Config.ofParams at h
    split at h
    · split at h <;> cases h <;> exact ⟨rfl, rfl, rfl⟩
    · cases h
  · rintro ⟨rfl, rfl, rfl⟩
    cases wd <;> exact dif_pos ⟨hk, hew⟩

/-- A configuration's own parameters are legal: its two proof fields and the three widths. -/
theorem Config.legalParams_self (c : Config) : legalParams c.w c.k c.ew :=
  ⟨by cases h : c.width <;> simp [Config.w, Width.bits, h], c.k_legal.1, c.k_legal.2, c.ew_legal⟩

/-- Every legal triple is the parameters of some configuration. -/
theorem exists_config_of_legalParams {w k ew : Nat} (h : legalParams w k ew) :
    ∃ c : Config, c.w = w ∧ c.k = k ∧ c.ew = ew := by
  obtain ⟨hw, hk1, hk64, hew⟩ := h
  obtain ⟨wd, hwd⟩ : ∃ wd : Width, wd.bits = w := by
    obtain rfl | rfl | rfl := hw
    exacts [⟨.w8, rfl⟩, ⟨.w16, rfl⟩, ⟨.w32, rfl⟩]
  exact ⟨⟨wd, k, ew, ⟨hk1, hk64⟩, hew⟩, hwd, rfl, rfl⟩

/-- Settles O8: a refused triple is one that no configuration has. -/
theorem illegalParametersAreRefused : Obligations.IllegalParametersAreRefused := by
  intro w k ew
  constructor
  · intro hillegal
    refine Option.eq_none_iff_forall_ne_some.mpr fun c hc => hillegal ?_
    obtain ⟨rfl, rfl, rfl⟩ := Config.ofParams_eq_some.mp hc
    exact c.legalParams_self
  · intro hlegal
    obtain ⟨c, hc⟩ := exists_config_of_legalParams hlegal
    exact ⟨c, Config.ofParams_eq_some.mpr hc, hc⟩

end Sys2Proof

/-! ### A step is the rule of its phase -/

namespace Sys2Proof.Machine

theorem takeCommand_of_idle {wd : Width} {effect : State → State} {s : State} (h : s.phase = .idle)
    (hw : s.cfg.width = wd) : takeCommand wd effect s = .next (effect s) := by
  simp [takeCommand, h, hw]

/-- The shape the three decoders share: FBITS legal, then S selects FMT.S or FMT.U; else ILLEGAL.FBITS. In IDLE that is
acceptance with this S, or rejection. -/
theorem exec_command_of_idle {s : State} {wd : Width} {raw : Word} {f : BitVec 6} {legal : Prop} [Decidable legal]
    {signed : Bool} {fmtS fmtU illegal : Instr} (h : s.phase = .idle) (hw : s.cfg.width = wd)
    (hS : exec fmtS s = takeCommand wd (fun t => t.accept raw f true) s)
    (hU : exec fmtU s = takeCommand wd (fun t => t.accept raw f false) s)
    (hI : exec illegal s = takeCommand wd State.reject s) :
    exec (if legal then (if signed then fmtS else fmtU) else illegal) s =
      if legal then .next (s.accept raw f signed) else .next s.reject := by
  split
  · cases signed with
    | false => exact hU.trans (takeCommand_of_idle h hw)
    | true => exact hS.trans (takeCommand_of_idle h hw)
  · exact hI.trans (takeCommand_of_idle h hw)

theorem exec_decode8 {s : State} (w : BitVec 15) (h : s.phase = .idle) (hw : s.cfg.width = .w8) :
    exec (decode8 w) s =
      if (w.extractLsb' 8 6).toNat ≤ 8 then
        .next (s.accept ((w.extractLsb' 0 8).setWidth 32) (w.extractLsb' 8 6) (w.getLsbD 14))
      else .next s.reject :=
  exec_command_of_idle h hw rfl rfl rfl

theorem exec_decode16 {s : State} (w : BitVec 23) (h : s.phase = .idle) (hw : s.cfg.width = .w16) :
    exec (decode16 w) s =
      if (w.extractLsb' 16 6).toNat ≤ 16 then
        .next (s.accept ((w.extractLsb' 0 16).setWidth 32) (w.extractLsb' 16 6) (w.getLsbD 22))
      else .next s.reject :=
  exec_command_of_idle h hw rfl rfl rfl

theorem exec_decode32 {s : State} (w : BitVec 39) (h : s.phase = .idle) (hw : s.cfg.width = .w32) :
    exec (decode32 w) s =
      if (w.extractLsb' 32 6).toNat ≤ 32 then
        .next (s.accept (w.extractLsb' 0 32) (w.extractLsb' 32 6) (w.getLsbD 38))
      else .next s.reject :=
  exec_command_of_idle h hw rfl rfl rfl

/-- The low `n` bits of a word, as a 32-bit register holds them. -/
theorem setWidth_extractLsb'_zero {m : Nat} (w : BitVec m) (n : Nat) :
    (w.extractLsb' 0 n).setWidth 32 = BitVec.ofNat 32 (w.toNat % 2 ^ n) :=
  BitVec.eq_of_toNat_eq (by simp)

/-- The command on the port, decoded, reads the port's own fields: in IDLE it is accepted iff FBITS ≤ W (30_encoding.md
R71 to R74; 40_command.md R101, R103). -/
theorem exec_decodeCommand_of_idle {s : State} (h : s.phase = .idle) :
    exec (decodeCommand s.cfg.width s.input.cmdWord) s =
      if s.portFbits.toNat ≤ s.cfg.w then .next (s.accept s.portRaw s.portFbits s.portSigned)
      else .next s.reject := by
  unfold State.portRaw State.portFbits State.portSigned Config.w
  rw [← setWidth_extractLsb'_zero]
  cases hw : s.cfg.width with
  | w8 => simp [decodeCommand, exec_decode8 _ h hw, BitVec.extractLsb'_setWidth_of_le, Width.bits]
  | w16 => simp [decodeCommand, exec_decode16 _ h hw, BitVec.extractLsb'_setWidth_of_le, Width.bits]
  | w32 => simp [decodeCommand, exec_decode32 _ h hw, Width.bits]

/-- In IDLE a command on the port runs as PHASE.IDLE. -/
theorem exec_phaseIdle_of_command {s : State} (h : s.phase = .idle) (hc : s.input.cmdValid = true) :
    exec .phaseIdle s = exec (decodeCommand s.cfg.width s.input.cmdWord) s := by
  rw [exec_decodeCommand_of_idle h]
  simp [exec, execPhaseIdle, hc]

/-- Without reset, whatever is on the command port, a step is the rule PHASE selects (30_encoding.md R78). -/
theorem step_eq_phase_rule {s : State} (h : s.input.rst = false) :
    step s = afterNext State.nextSample (exec s.phase.instr s.clearDone) := by
  rw [step_of_not_rst h]
  by_cases hc : s.phase = .idle ∧ s.input.cmdValid = true
  · obtain ⟨hidle, hcmd⟩ := hc
    have hcommand := exec_phaseIdle_of_command (s := s.clearDone) hidle hcmd
    rw [State.fetch, if_pos ⟨hidle, hcmd⟩, hidle]
    exact congrArg _ hcommand.symm
  · rw [State.fetch, if_neg hc]

/-! ### The order of the phases -/

theorem State.outValid_iff {s : State} :
    s.outValid = true ↔ s.phase = .emitSign ∨ s.phase = .emitInt ∨ s.phase = .emitPoint ∨ s.phase = .emitFrac := by
  unfold State.outValid
  cases s.phase <;> simp

/-- The sink handshake completes, holds the phase, or goes where the Advance does (44_emission.md R181). -/
theorem emitStep_phase {byte : Except Fault Byte} {advance : State → State} {p : Phase}
    (hadv : ∀ u, (advance u).phase = p ∨ (advance u).phase = u.phase) {s t : State}
    (h : emitStep byte advance s = .next t) : t.phase = p ∨ t.phase = s.phase ∨ t.phase = .idle := by
  obtain ⟨-, ⟨-, rfl⟩ | ⟨-, -, -, rfl⟩ | ⟨-, -, rfl⟩⟩ := emitStep_eq_next.mp h
  · exact .inr (.inr rfl)
  · exact (hadv _).imp_right .inl
  · exact .inr (.inl rfl)

/-- EMIT_INT goes on to EMIT_POINT or keeps the phase (R183). -/
theorem advanceEmitInt_phase (s : State) :
    (advanceEmitInt s).phase = .emitPoint ∨ (advanceEmitInt s).phase = s.phase := by
  unfold advanceEmitInt
  split
  exacts [.inl rfl, .inr rfl]

/-- EMIT_FRAC completes or keeps the phase (R185). -/
theorem advanceEmitFrac_phase (s : State) :
    (advanceEmitFrac s).phase = .idle ∨ (advanceEmitFrac s).phase = s.phase := by
  unfold advanceEmitFrac
  split
  exacts [.inl rfl, .inr rfl]

/-- INTDIG ends in FRACDIG, with the sign byte or without (42_integer_digits.md R144). -/
theorem finishIntdig_phase {s t : State} (h : finishIntdig s = .next t) : t.phase = .fracdig := by
  obtain ⟨-, rfl⟩ | ⟨-, -, -, rfl⟩ := finishIntdig_eq_next.mp h <;> rfl

theorem exec_phaseIdle_phase {s t : State} (h : exec .phaseIdle s = .next t) :
    t.phase = .resolve ∨ t.phase = .idle := by
  obtain ⟨-, -, rfl⟩ | ⟨-, -, rfl⟩ | ⟨-, rfl⟩ := exec_idle_eq_next.mp h
  exacts [.inl rfl, .inr rfl, .inr rfl]

theorem exec_phaseResolve_phase {s t : State} (h : exec .phaseResolve s = .next t) : t.phase = .intdig := by
  cases h; rfl

theorem exec_phaseIntdig_phase {s t : State} (h : exec .phaseIntdig s = .next t) :
    t.phase = .fracdig ∨ t.phase = s.phase := by
  obtain ⟨-, -, ⟨-, hfin⟩ | ⟨-, rfl⟩⟩ := exec_intdig_eq_next.mp h
  · exact .inl (finishIntdig_phase hfin)
  · exact .inr rfl

theorem exec_phaseFracdig_phase {s t : State} (h : exec .phaseFracdig s = .next t) :
    t.phase = (if s.pol then .emitSign else .emitInt) ∨ t.phase = s.phase := by
  obtain ⟨-, ⟨-, rfl⟩ | ⟨-, rfl⟩⟩ := exec_fracdig_eq_next.mp h
  exacts [.inl rfl, .inr rfl]

theorem exec_phaseEmitSign_phase {s t : State} (h : exec .phaseEmitSign s = .next t) :
    t.phase = .emitInt ∨ t.phase = s.phase ∨ t.phase = .idle :=
  emitStep_phase (advance := advanceEmitSign) (fun _ => .inl rfl) h

theorem exec_phaseEmitInt_phase {s t : State} (h : exec .phaseEmitInt s = .next t) :
    t.phase = .emitPoint ∨ t.phase = s.phase ∨ t.phase = .idle :=
  emitStep_phase advanceEmitInt_phase h

theorem exec_phaseEmitPoint_phase {s t : State} (h : exec .phaseEmitPoint s = .next t) :
    t.phase = .emitFrac ∨ t.phase = s.phase ∨ t.phase = .idle :=
  emitStep_phase (byte := .ok pointByte) (advance := advanceEmitPoint) (fun _ => .inl rfl) h

theorem exec_phaseEmitFrac_phase {s t : State} (h : exec .phaseEmitFrac s = .next t) :
    t.phase = s.phase ∨ t.phase = .idle :=
  (emitStep_phase advanceEmitFrac_phase h).elim .inr id

/-- The rule of a phase leads to a phase that R3 allows after it. -/
theorem exec_phase_rule_successor {s t : State} (h : exec s.phase.instr s = .next t) : Spec.successor s t.phase := by
  cases hp : s.phase <;> rw [hp] at h
  case idle => obtain ht | ht := exec_phaseIdle_phase h <;> simp [ht, hp, Spec.successor]
  case resolve => simp [exec_phaseResolve_phase h, hp, Spec.successor]
  case intdig => obtain ht | ht := exec_phaseIntdig_phase h <;> simp [ht, hp, Spec.successor]
  case fracdig =>
    obtain ht | ht := exec_phaseFracdig_phase h
    · cases hpol : s.pol <;> simp [ht, hp, hpol, Spec.successor]
    · simp [ht, hp, Spec.successor]
  case emitSign =>
    obtain ht | ht | ht := exec_phaseEmitSign_phase h <;> simp [ht, hp, Spec.successor, State.outValid_iff]
  case emitInt =>
    obtain ht | ht | ht := exec_phaseEmitInt_phase h <;> simp [ht, hp, Spec.successor, State.outValid_iff]
  case emitPoint =>
    obtain ht | ht | ht := exec_phaseEmitPoint_phase h <;> simp [ht, hp, Spec.successor, State.outValid_iff]
  case emitFrac =>
    obtain ht | ht := exec_phaseEmitFrac_phase h <;> simp [ht, hp, Spec.successor, State.outValid_iff]

/-- Settles O47: a step is the rule of its phase, and each rule leads to an allowed successor. -/
theorem phasesRunInOrder : Obligations.PhasesRunInOrder := by
  intro s t hstep hrst
  rw [step_eq_phase_rule hrst] at hstep
  obtain ⟨u, hexec, rfl⟩ := afterNext_eq_next.mp hstep
  exact exec_phase_rule_successor (s := s.clearDone) (t := u) hexec

end Sys2Proof.Machine
end

section
/-! What a step does to the state's registers and reads of its ports (10_state.md R22, R30, R33, R36). -/

/-! ### The command word's fields -/

namespace Sys2Proof.Machine

theorem State.portFbits_toNat (s : State) : s.portFbits.toNat = Spec.fbitsField s.cfg.width s.input.cmdWord := by
  simp [State.portFbits, Spec.fbitsField, Config.w, Nat.shiftRight_eq_div_pow]

theorem State.portRaw_toNat (s : State) : s.portRaw.toNat = Spec.rawField s.cfg.width s.input.cmdWord := by
  have hlt : s.input.cmdWord.toNat % 2 ^ s.cfg.width.bits < 2 ^ 32 :=
    (Nat.mod_lt _ (Nat.two_pow_pos _)).trans_le s.cfg.width.two_pow_bits_le
  rw [State.portRaw, BitVec.toNat_ofNat]
  exact Nat.mod_eq_of_lt hlt

theorem State.portSigned_eq (s : State) : s.portSigned = Spec.signedField s.cfg.width s.input.cmdWord := rfl

/-! ### The rule of IDLE, case by case (40_command.md R101 to R103), and the rule a step ran -/

theorem exec_phaseIdle_of_legal {s : State} (hvalid : s.input.cmdValid = true)
    (hlegal : s.portFbits.toNat ≤ s.cfg.w) :
    exec .phaseIdle s = .next (s.accept s.portRaw s.portFbits s.portSigned) :=
  exec_idle_eq_next.mpr (.inl ⟨hvalid, hlegal, rfl⟩)

theorem exec_phaseIdle_of_illegal {s : State} (hvalid : s.input.cmdValid = true)
    (hillegal : s.cfg.w < s.portFbits.toNat) : exec .phaseIdle s = .next s.reject :=
  exec_idle_eq_next.mpr (.inr (.inl ⟨hvalid, hillegal, rfl⟩))

theorem exec_phaseIdle_of_no_command {s : State} (hnone : s.input.cmdValid = false) :
    exec .phaseIdle s = .next { s with phase := .idle } :=
  exec_idle_eq_next.mpr (.inr (.inr ⟨hnone, rfl⟩))

/-- A step without reset that answers next ran the rule of its phase, after DONE <- 0. -/
theorem exec_phase_rule_of_step {s t : State} (h : step s = .next t) (hrst : s.input.rst = false) :
    ∃ u, exec s.phase.instr s.clearDone = .next u ∧ t = u.nextSample := by
  rw [step_eq_phase_rule hrst] at h
  exact afterNext_eq_next.mp h

/-! ### The reset step -/

/-- Settles O41: the reset rule wins and writes every register. -/
theorem resetStepResetsEverything : Obligations.ResetStepResetsEverything := by
  intro s hrst
  exact ⟨_, step_of_rst hrst, rfl, fun _ => ⟨rfl, rfl⟩, rfl, rfl, rfl⟩

/-! ### The operand latches -/

/-- RAW, FB and SGN together (R22). -/
def State.operands (s : State) : Word × BitVec 6 × Bool := (s.raw, s.fb, s.sgn)

theorem State.operands_eq_iff {s t : State} :
    t.operands = s.operands ↔ t.raw = s.raw ∧ t.fb = s.fb ∧ t.sgn = s.sgn := by
  simp [State.operands]

/-- Without a legal command on the port, the rule of IDLE keeps the operands (40_command.md R102, R103). -/
theorem exec_phaseIdle_operands {s t : State} (h : exec .phaseIdle s = .next t)
    (hno : ¬(s.input.cmdValid = true ∧ s.portFbits.toNat ≤ s.cfg.w)) : t.operands = s.operands := by
  obtain ⟨hvalid, hlegal, -⟩ | ⟨-, -, rfl⟩ | ⟨-, rfl⟩ := exec_idle_eq_next.mp h
  exacts [absurd ⟨hvalid, hlegal⟩ hno, rfl, rfl]

theorem finishIntdig_operands {s t : State} (h : finishIntdig s = .next t) : t.operands = s.operands := by
  obtain ⟨-, rfl⟩ | ⟨-, -, -, rfl⟩ := finishIntdig_eq_next.mp h <;> rfl

theorem exec_phaseIntdig_operands {s t : State} (h : exec .phaseIntdig s = .next t) : t.operands = s.operands := by
  obtain ⟨-, -, ⟨-, hfin⟩ | ⟨-, rfl⟩⟩ := exec_intdig_eq_next.mp h
  · exact (finishIntdig_operands hfin).trans rfl
  · rfl

theorem exec_phaseFracdig_operands {s t : State} (h : exec .phaseFracdig s = .next t) : t.operands = s.operands := by
  obtain ⟨-, ⟨-, rfl⟩ | ⟨-, rfl⟩⟩ := exec_fracdig_eq_next.mp h <;> rfl

/-- The handshake keeps the operands if the phase's Advance does. -/
theorem emitStep_operands {byte : Except Fault Byte} {advance : State → State}
    (hadv : ∀ u, (advance u).operands = u.operands) {s t : State} (h : emitStep byte advance s = .next t) :
    t.operands = s.operands := by
  obtain ⟨-, ⟨-, rfl⟩ | ⟨-, -, -, rfl⟩ | ⟨-, -, rfl⟩⟩ := emitStep_eq_next.mp h
  exacts [rfl, hadv _, rfl]

theorem advanceEmitInt_operands (s : State) : (advanceEmitInt s).operands = s.operands := by
  unfold advanceEmitInt
  split <;> rfl

theorem advanceEmitFrac_operands (s : State) : (advanceEmitFrac s).operands = s.operands := by
  unfold advanceEmitFrac
  split <;> rfl

/-- The rule of a busy phase keeps the operands. -/
theorem exec_phase_rule_operands {s t : State} (hbusy : s.phase ≠ .idle) (h : exec s.phase.instr s = .next t) :
    t.operands = s.operands := by
  cases hp : s.phase <;> rw [hp] at h
  case idle => exact absurd hp hbusy
  case resolve => cases h; rfl
  case intdig => exact exec_phaseIntdig_operands h
  case fracdig => exact exec_phaseFracdig_operands h
  case emitSign => exact emitStep_operands (advance := advanceEmitSign) (fun _ => rfl) h
  case emitInt => exact emitStep_operands advanceEmitInt_operands h
  case emitPoint => exact emitStep_operands (byte := .ok pointByte) (advance := advanceEmitPoint) (fun _ => rfl) h
  case emitFrac => exact emitStep_operands advanceEmitFrac_operands h

/-- Settles O45: of the phases' rules only IDLE's acceptance writes the operands. -/
theorem operandLatchesHold : Obligations.OperandLatchesHold := by
  intro s t hstep hrst
  obtain ⟨u, hexec, rfl⟩ := exec_phase_rule_of_step hstep hrst
  rw [← State.portFbits_toNat]
  constructor
  · intro hno
    refine State.operands_eq_iff.mp (show u.operands = s.clearDone.operands from ?_)
    by_cases hp : s.phase = .idle
    · rw [hp] at hexec
      exact exec_phaseIdle_operands hexec fun hlegal => hno ⟨hp, hlegal⟩
    · exact exec_phase_rule_operands (s := s.clearDone) hp hexec
  · intro hp hvalid hlegal
    rw [hp] at hexec
    have haccept := exec_phaseIdle_of_legal (s := s.clearDone) hvalid hlegal
    obtain rfl := Host.Outcome.next.inj (haccept.symm.trans hexec)
    exact ⟨s.portRaw_toNat, rfl, s.portSigned_eq, hlegal⟩

/-! ### DONE -/

/-- R30's completion steps, by what the step sees: a rejection, a sink failure, or the acceptance of the last digit. -/
def State.completes (s : State) : Prop :=
  (s.phase = .idle ∧ s.input.cmdValid = true ∧ s.cfg.w < s.portFbits.toNat) ∨
  (s.outValid = true ∧ s.input.snkErr = true) ∨
  (s.phase = .emitFrac ∧ s.input.snkErr = false ∧ s.input.snkReady = true ∧ s.ecur.toNat + 1 = s.fcnt.toNat)

theorem exec_phaseIdle_done {s t : State} (hdone : s.done = false) (h : exec .phaseIdle s = .next t) :
    t.done = true ↔ s.input.cmdValid = true ∧ s.cfg.w < s.portFbits.toNat := by
  obtain ⟨-, hlegal, rfl⟩ | ⟨hvalid, hillegal, rfl⟩ | ⟨hnone, rfl⟩ := exec_idle_eq_next.mp h
  · simp [hdone, hlegal]
  · simp [hvalid, hillegal]
  · simp [hdone, hnone]

theorem exec_phaseIntdig_done {s t : State} (h : exec .phaseIntdig s = .next t) : t.done = s.done := by
  obtain ⟨-, -, ⟨-, hfin⟩ | ⟨-, rfl⟩⟩ := exec_intdig_eq_next.mp h
  · obtain ⟨-, rfl⟩ | ⟨-, -, -, rfl⟩ := finishIntdig_eq_next.mp hfin <;> rfl
  · rfl

theorem exec_phaseFracdig_done {s t : State} (h : exec .phaseFracdig s = .next t) : t.done = s.done := by
  obtain ⟨-, ⟨-, rfl⟩ | ⟨-, rfl⟩⟩ := exec_fracdig_eq_next.mp h <;> rfl

/-- The handshake completes when the sink fails, or when it takes the byte and the Advance completes (44_emission.md
R181). -/
theorem emitStep_done {byte : Except Fault Byte} {advance : State → State} {s t : State} (hdone : s.done = false)
    (h : emitStep byte advance s = .next t) :
    t.done = true ↔
      s.input.snkErr = true ∨ s.input.snkErr = false ∧ s.input.snkReady = true ∧
      (advance { s with ocount := s.ocount + 1#8 }).done = true := by
  obtain ⟨-, ⟨herr, rfl⟩ | ⟨herr, hready, -, rfl⟩ | ⟨herr, hready, rfl⟩⟩ := emitStep_eq_next.mp h
  · simp [herr]
  · simp [herr, hready]
  · simp [herr, hready, hdone]

/-- If the Advance never completes, the handshake completes only when the sink fails. -/
theorem emitStep_done_of_advance {byte : Except Fault Byte} {advance : State → State}
    (hadv : ∀ u, (advance u).done = u.done) {s t : State} (hdone : s.done = false)
    (h : emitStep byte advance s = .next t) : t.done = true ↔ s.input.snkErr = true := by
  simp [emitStep_done hdone h, hadv, hdone]

theorem advanceEmitInt_done (s : State) : (advanceEmitInt s).done = s.done := by
  unfold advanceEmitInt
  split <;> rfl

theorem advanceEmitFrac_done {s : State} (hdone : s.done = false) :
    (advanceEmitFrac s).done = true ↔ s.ecur + 1#7 = s.fcnt := by
  unfold advanceEmitFrac
  split
  case isTrue hlast => simp [hlast]
  case isFalse hmore => simp [hmore, hdone]

/-- A cursor inside FBUF does not wrap: K is at most 64. -/
theorem State.ecur_add_eq_fcnt_iff {s : State} (h : s.ecur.toNat < s.cfg.k) :
    s.ecur + 1#7 = s.fcnt ↔ s.ecur.toNat + 1 = s.fcnt.toNat := by
  have hk := s.cfg.k_legal.2
  rw [← ecur_add_toNat (by omega), BitVec.toNat_inj]

theorem exec_phaseEmitFrac_done {s t : State} (hdone : s.done = false) (h : exec .phaseEmitFrac s = .next t) :
    t.done = true ↔ s.input.snkErr = true ∨
      s.input.snkErr = false ∧ s.input.snkReady = true ∧ s.ecur.toNat + 1 = s.fcnt.toNat := by
  obtain ⟨⟨b, hb⟩, -⟩ := emitStep_eq_next.mp h
  obtain ⟨hcursor, -⟩ := State.readFbuf_eq_ok.mp hb
  rw [emitStep_done hdone h, advanceEmitFrac_done (s := { s with ocount := s.ocount + 1#8 }) hdone,
    State.ecur_add_eq_fcnt_iff (s := { s with ocount := s.ocount + 1#8 }) hcursor]

/-- The rule of a phase, run with DONE = 0, leaves DONE = 1 exactly when it completes. -/
theorem exec_phase_rule_done {s t : State} (hdone : s.done = false) (h : exec s.phase.instr s = .next t) :
    t.done = true ↔ s.completes := by
  unfold State.completes
  rw [State.outValid_iff]
  cases hp : s.phase <;> rw [hp] at h
  case idle => simp [exec_phaseIdle_done hdone h]
  case resolve => cases h; simp [hdone]
  case intdig => simp [exec_phaseIntdig_done h, hdone]
  case fracdig => simp [exec_phaseFracdig_done h, hdone]
  case emitSign =>
    have ht := emitStep_done_of_advance (advance := advanceEmitSign) (fun _ => rfl) hdone h
    simp [ht]
  case emitInt =>
    have ht := emitStep_done_of_advance advanceEmitInt_done hdone h
    simp [ht]
  case emitPoint =>
    have ht := emitStep_done_of_advance (byte := .ok pointByte) (advance := advanceEmitPoint) (fun _ => rfl) hdone h
    simp [ht]
  case emitFrac => simp [exec_phaseEmitFrac_done hdone h]

/-- Settles O44: DONE is cleared first, and then only a completion sets it. -/
theorem doneMarksCompletionSteps : Obligations.DoneMarksCompletionSteps := by
  intro s t hstep
  rw [← State.portFbits_toNat]
  cases hrst : s.input.rst with
  | true =>
    rw [step_of_rst hrst] at hstep
    cases hstep
    simp
  | false =>
    obtain ⟨u, hexec, rfl⟩ := exec_phase_rule_of_step hstep hrst
    have hdone : u.done = true ↔ s.completes := exec_phase_rule_done (s := s.clearDone) rfl hexec
    exact ⟨fun h => ⟨rfl, hdone.mp h⟩, fun h => hdone.mpr h.2⟩

/-! ### The inputs a step reads -/

/-- Two samples that agree on what IDLE reads: cmd_valid, and with it the CW wires of cmd_word. -/
def Inputs.sameCommand (c : Config) (i j : Inputs) : Prop :=
  i.cmdValid = j.cmdValid ∧
  (i.cmdValid = true → i.cmdWord.toNat % 2 ^ c.width.cw = j.cmdWord.toNat % 2 ^ c.width.cw)

/-- Two samples that agree on what an emission phase reads: snk_ready, snk_err, and with it the EW wires of snk_code. -/
def Inputs.sameAnswer (c : Config) (i j : Inputs) : Prop :=
  i.snkReady = j.snkReady ∧ i.snkErr = j.snkErr ∧
  (i.snkErr = true → i.snkCode.toNat % 2 ^ c.ew = j.snkCode.toNat % 2 ^ c.ew)

/-- The step's outcome forgets the sample of the step. -/
theorem afterNext_nextSample_withInput (o : Host.Outcome State Fault Refusal) (i : Inputs) :
    afterNext State.nextSample (afterNext (·.withInput i) o) = afterNext State.nextSample o := by
  cases o <;> rfl

theorem State.pushIbuf_withInput (s : State) (i : Inputs) (b : Byte) :
    (s.withInput i).pushIbuf b = (s.pushIbuf b).map (·.withInput i) := by
  unfold State.pushIbuf
  rw [apply_ite (Except.map (State.withInput · i))]
  rfl

theorem State.pushFbuf_withInput (s : State) (i : Inputs) (b : Byte) :
    (s.withInput i).pushFbuf b = (s.pushFbuf b).map (·.withInput i) := by
  unfold State.pushFbuf
  rw [apply_ite (Except.map (State.withInput · i))]
  rfl

theorem State.countByte_withInput (s : State) (i : Inputs) :
    (s.withInput i).countByte = s.countByte.map (·.withInput i) := by
  unfold State.countByte
  rw [apply_ite (Except.map (State.withInput · i))]
  rfl

theorem advanceEmitInt_withInput (s : State) (i : Inputs) :
    advanceEmitInt (s.withInput i) = (advanceEmitInt s).withInput i := by
  unfold advanceEmitInt
  rw [apply_ite (State.withInput · i)]
  rfl

theorem advanceEmitFrac_withInput (s : State) (i : Inputs) :
    advanceEmitFrac (s.withInput i) = (advanceEmitFrac s).withInput i := by
  unfold advanceEmitFrac
  rw [apply_ite (State.withInput · i)]
  rfl

theorem finishIntdig_withInput (s : State) (i : Inputs) :
    finishIntdig (s.withInput i) = afterNext (·.withInput i) (finishIntdig s) := by
  unfold finishIntdig
  rw [State.pushIbuf_withInput, State.withInput_pol]
  cases s.pol
  · rfl
  · cases s.pushIbuf minusByte <;> rfl

theorem exec_phaseIntdig_withInput (s : State) (i : Inputs) :
    exec .phaseIntdig (s.withInput i) = afterNext (·.withInput i) (exec .phaseIntdig s) := by
  simp only [exec, execPhaseIntdig, State.pushIbuf_withInput, State.withInput_irem]
  cases s.pushIbuf (digitByte (s.irem.toNat % 10)) with
  | error e => rfl
  | ok t =>
    have hlast := finishIntdig_withInput { t with irem := BitVec.ofNat 32 (s.irem.toNat / 10) } i
    simp only [Except.map]
    rw [apply_ite (afterNext (State.withInput · i)), ← hlast]
    rfl

theorem exec_phaseFracdig_withInput (s : State) (i : Inputs) :
    exec .phaseFracdig (s.withInput i) = afterNext (·.withInput i) (exec .phaseFracdig s) := by
  simp only [exec, execPhaseFracdig, State.pushFbuf_withInput, State.withInput_cfg, State.withInput_frem,
    State.withInput_fb]
  cases s.pushFbuf (digitByte (fracDigit s.cfg.width s.frem.toNat s.fb.toNat)) with
  | error e => rfl
  | ok t =>
    simp only [Except.map]
    rw [apply_ite (afterNext (State.withInput · i))]
    rfl

/-- The handshake reads snk_err, then snk_ready or snk_code, and no other input (44_emission.md R181). -/
theorem emitStep_of_sameAnswer {byte : Except Fault Byte} {advance : State → State}
    (hadv : ∀ u k, advance (u.withInput k) = (advance u).withInput k) {s : State} {i j : Inputs}
    (h : i.sameAnswer s.cfg j) :
    afterNext State.nextSample (emitStep byte advance (s.withInput i)) =
      afterNext State.nextSample (emitStep byte advance (s.withInput j)) := by
  obtain ⟨hready, herr, hcode⟩ := h
  cases byte with
  | error e => rfl
  | ok b =>
    simp only [emitStep, State.input_withInput, ← herr, ← hready, State.countByte_withInput]
    cases hfail : i.snkErr with
    | true =>
      have hsink : (s.withInput i).sinkCode = (s.withInput j).sinkCode := hcode hfail
      simp only [if_true, hsink]
      rfl
    | false =>
      cases i.snkReady with
      | false => rfl
      | true =>
        cases s.countByte with
        | error e => rfl
        | ok t =>
          simp only [Except.map, hadv]
          rfl

/-- Two words that agree on their low `n` wires have the same bit `k` below `n`. -/
theorem getLsbD_eq_of_mod_eq {m n k : Nat} {a b : BitVec m} (h : a.toNat % 2 ^ n = b.toNat % 2 ^ n) (hk : k < n) :
    a.getLsbD k = b.getLsbD k := by
  have hbit := congrArg (Nat.testBit · k) h
  simpa [Nat.testBit_mod_two_pow, hk, BitVec.testBit_toNat] using hbit

/-- The three fields of the command word lie on its CW wires (30_encoding.md R70). -/
theorem State.port_eq_of_mod_eq {s : State} {i j : Inputs}
    (h : i.cmdWord.toNat % 2 ^ s.cfg.width.cw = j.cmdWord.toNat % 2 ^ s.cfg.width.cw) :
    (s.withInput i).portRaw = (s.withInput j).portRaw ∧ (s.withInput i).portFbits = (s.withInput j).portFbits ∧
      (s.withInput i).portSigned = (s.withInput j).portSigned := by
  have hraw : i.cmdWord.toNat % 2 ^ s.cfg.w = j.cmdWord.toNat % 2 ^ s.cfg.w := by
    have hdvd : 2 ^ s.cfg.w ∣ 2 ^ s.cfg.width.cw := pow_dvd_pow 2 (Nat.le_add_right _ 7)
    rw [← Nat.mod_mod_of_dvd _ hdvd, h, Nat.mod_mod_of_dvd _ hdvd]
  have hbit (k : Nat) (hk : k < 7) : i.cmdWord.getLsbD (s.cfg.w + k) = j.cmdWord.getLsbD (s.cfg.w + k) :=
    getLsbD_eq_of_mod_eq h (Nat.add_lt_add_left hk _)
  refine ⟨congrArg (BitVec.ofNat 32) hraw, BitVec.eq_of_getLsbD_eq fun k hk => ?_, hbit 6 (by omega)⟩
  simp [State.portFbits, hbit k (by omega)]

/-- The rule of IDLE reads cmd_valid, and with it the CW wires of cmd_word, and no other input (40_command.md R101 to
R103). -/
theorem exec_phaseIdle_of_sameCommand {s : State} {i j : Inputs} (h : i.sameCommand s.cfg j) :
    afterNext State.nextSample (exec .phaseIdle (s.withInput i)) =
      afterNext State.nextSample (exec .phaseIdle (s.withInput j)) := by
  obtain ⟨hvalid, hword⟩ := h
  cases hi : i.cmdValid with
  | false =>
    rw [exec_phaseIdle_of_no_command (s := s.withInput i) hi,
      exec_phaseIdle_of_no_command (s := s.withInput j) (hvalid ▸ hi)]
    rfl
  | true =>
    have hj : j.cmdValid = true := hvalid ▸ hi
    obtain ⟨hraw, hfbits, hsigned⟩ := State.port_eq_of_mod_eq (hword hi)
    by_cases hlegal : (s.withInput i).portFbits.toNat ≤ s.cfg.w
    · rw [exec_phaseIdle_of_legal (s := s.withInput i) hi hlegal,
        exec_phaseIdle_of_legal (s := s.withInput j) hj (hfbits ▸ hlegal), hraw, hfbits, hsigned]
      rfl
    · have hillegal := Nat.lt_of_not_le hlegal
      rw [exec_phaseIdle_of_illegal (s := s.withInput i) hi hillegal,
        exec_phaseIdle_of_illegal (s := s.withInput j) hj (hfbits ▸ hillegal)]
      rfl

/-- A rule that hands the sample on unread does not depend on it. -/
theorem afterNext_nextSample_of_unread {rule : State → Host.Outcome State Fault Refusal}
    (hrule : ∀ s i, rule (s.withInput i) = afterNext (·.withInput i) (rule s)) (s : State) (i j : Inputs) :
    afterNext State.nextSample (rule (s.withInput i)) = afterNext State.nextSample (rule (s.withInput j)) := by
  rw [hrule, hrule, afterNext_nextSample_withInput, afterNext_nextSample_withInput]

/-- The rule of a phase reads only the inputs that R33 lists for it. -/
theorem exec_phase_rule_of_same_read {s : State} {i j : Inputs} (hcmd : s.phase = .idle → i.sameCommand s.cfg j)
    (hans : s.outValid = true → i.sameAnswer s.cfg j) :
    afterNext State.nextSample (exec s.phase.instr (s.withInput i)) =
      afterNext State.nextSample (exec s.phase.instr (s.withInput j)) := by
  rw [State.outValid_iff] at hans
  cases hp : s.phase
  case idle => exact exec_phaseIdle_of_sameCommand (hcmd hp)
  case resolve => rfl
  case intdig => exact afterNext_nextSample_of_unread exec_phaseIntdig_withInput s i j
  case fracdig => exact afterNext_nextSample_of_unread exec_phaseFracdig_withInput s i j
  case emitSign => exact emitStep_of_sameAnswer (advance := advanceEmitSign) (fun _ _ => rfl) (hans (by simp [hp]))
  case emitInt => exact emitStep_of_sameAnswer advanceEmitInt_withInput (hans (by simp [hp]))
  case emitPoint =>
    exact emitStep_of_sameAnswer (byte := .ok pointByte) (advance := advanceEmitPoint) (fun _ _ => rfl)
      (hans (by simp [hp]))
  case emitFrac => exact emitStep_of_sameAnswer advanceEmitFrac_withInput (hans (by simp [hp]))

/-- Settles O49: a reset step reads no input but rst, any other step what its phase's rule reads. -/
theorem unreadInputsHaveNoEffect : Obligations.UnreadInputsHaveNoEffect := by
  intro s i j hrst hcmd hans
  cases hi : i.rst with
  | true =>
    rw [step_of_rst (s := s.withInput i) hi, step_of_rst (s := s.withInput j) (hrst ▸ hi)]
    rfl
  | false =>
    rw [step_eq_phase_rule (s := s.withInput i) hi, step_eq_phase_rule (s := s.withInput j) (hrst ▸ hi)]
    exact exec_phase_rule_of_same_read (s := s.clearDone) (hcmd hi) (hans hi)

end Sys2Proof.Machine
end

section
/-! The command word's fields as the decoder reads them and the PHASE codes (30_encoding.md R70 to R74, R78), and the
ports as functions of the state (30_encoding.md R81; 44_emission.md R186; 10_state.md R32). -/

/-! ### The decoder on command words -/

namespace Sys2Proof

/-- A field of a word is that span of the number the word stands for (30_encoding.md R70 to R72). -/
theorem extractLsb'_ofNat_eq {m lo n w : Nat} (h : w < 2 ^ m) :
    (BitVec.ofNat m w).extractLsb' lo n = BitVec.ofNat n (w / 2 ^ lo % 2 ^ n) :=
  BitVec.eq_of_toNat_eq (by simp [Nat.mod_eq_of_lt h, Nat.shiftRight_eq_div_pow])

theorem decode_of_lt8 {w : Nat} (h : w < 2 ^ 15) : decode ⟨15, w⟩ = .ok (decode8 (BitVec.ofNat 15 w)) := if_pos h

theorem decode_of_lt16 {w : Nat} (h : w < 2 ^ 23) : decode ⟨23, w⟩ = .ok (decode16 (BitVec.ofNat 23 w)) := if_pos h

theorem decode_of_lt32 {w : Nat} (h : w < 2 ^ 39) : decode ⟨39, w⟩ = .ok (decode32 (BitVec.ofNat 39 w)) := if_pos h

/-- Settles O3: the decoder's three fields, each read off the number. -/
theorem commandWordFieldsDecode : Obligations.CommandWordFieldsDecode := by
  refine ⟨fun w hw => (decode_of_lt8 hw).trans ?_, fun w hw => (decode_of_lt16 hw).trans ?_,
    fun w hw => (decode_of_lt32 hw).trans ?_⟩
  all_goals
    simp [decode8, decode16, decode32, extractLsb'_ofNat_eq hw, BitVec.getLsbD_ofNat, -BitVec.getLsbD_eq_getElem]

end Sys2Proof

/-! ### The PHASE codes -/

namespace Sys2Proof.Machine

@[simp] theorem Phase.ofCode_code (p : Phase) : Phase.ofCode p.code = p := by cases p <;> rfl

@[simp] theorem Phase.code_ofCode (c : BitVec 3) : (Phase.ofCode c).code = c := by revert c; decide

/-- A PHASE code selects the step rule of its phase. -/
theorem Phase.decode_code (p : Phase) : decode ⟨3, p.code.toNat⟩ = .ok p.instr := by cases p <;> rfl

/-- Settles O6: `Phase.code` and `Phase.ofCode` are inverse to each other, and the decoder agrees with them. -/
theorem phaseCodesSelectTheirRules : Obligations.PhaseCodesSelectTheirRules :=
  ⟨rfl, rfl, rfl, rfl, rfl, rfl, rfl, rfl, fun p => ⟨p.ofCode_code, p.decode_code⟩, Phase.code_ofCode⟩

/-! ### The ports -/

theorem State.cmdReady_iff {s : State} : s.cmdReady = true ↔ s.phase = .idle := by simp [State.cmdReady]

theorem State.busy_iff {s : State} : s.busy = true ↔ s.phase ≠ .idle := by simp [State.busy]

/-- R81: the segment code is PHASE - 4. -/
theorem State.outSeg_toNat {s : State} (h : s.outValid = true) : s.outSeg.toNat = s.phase.code.toNat - 4 := by
  unfold State.outSeg
  obtain hp | hp | hp | hp := State.outValid_iff.mp h <;> rw [hp] <;> rfl

theorem State.outSegLast_iff {s : State} :
    s.outSegLast = true ↔ s.phase = .emitSign ∨ (s.phase = .emitInt ∧ s.ecur.toNat + 1 = s.cfg.ib) ∨
      s.phase = .emitPoint ∨ (s.phase = .emitFrac ∧ s.ecur.toNat + 1 = s.fcnt.toNat) := by
  unfold State.outSegLast
  cases s.phase <;> simp

theorem State.outEnd_iff {s : State} :
    s.outEnd = true ↔ s.phase = .emitFrac ∧ s.ecur.toNat + 1 = s.fcnt.toNat := by
  simp [State.outEnd]

theorem State.outEnd_eq_false {s : State} (h : s.phase ≠ .emitFrac) : s.outEnd = false := by simp [State.outEnd, h]

/-- EMIT_SIGN and EMIT_INT offer the byte of IBUF at the cursor. -/
theorem State.outByte_of_ibuf {s : State} (h : s.phase = .emitSign ∨ s.phase = .emitInt)
    (hcursor : s.ecur.toNat < s.cfg.ib) : s.outByte = .ok (s.ibuf.get s.ecur.toNat) := by
  have hread := State.readIbuf_eq_ok.mpr ⟨hcursor, rfl⟩
  unfold State.outByte
  obtain hp | hp := h <;> rw [hp] <;> exact hread

/-- EMIT_FRAC offers the byte of FBUF at the cursor. -/
theorem State.outByte_of_fbuf {s : State} (h : s.phase = .emitFrac) (hcursor : s.ecur.toNat < s.cfg.k) :
    s.outByte = .ok (s.fbuf.get s.ecur.toNat) := by
  have hread := State.readFbuf_eq_ok.mpr ⟨hcursor, rfl⟩
  unfold State.outByte
  rw [h]
  exact hread

theorem State.outByte_of_emitPoint {s : State} (h : s.phase = .emitPoint) : s.outByte = .ok pointByte := by
  unfold State.outByte
  rw [h]

/-- Settles O36: each port's lemma, phase by phase; outside emission they are all 0. -/
theorem outputPortsFollowState : Obligations.OutputPortsFollowState := by
  intro s
  refine ⟨fun h => ?sign, fun h => ?int, fun h => ?point, fun h => ?frac, fun h => ?quiet, State.outSeg_toNat,
    State.cmdReady_iff, State.busy_iff⟩
  case sign =>
    exact ⟨State.outValid_iff.mpr (by simp [h]), by simp [State.outSeg, h], State.outSegLast_iff.mpr (by simp [h]),
      State.outEnd_eq_false (by simp [h]), State.outByte_of_ibuf (.inl h)⟩
  case int =>
    exact ⟨State.outValid_iff.mpr (by simp [h]), by simp [State.outSeg, h], by simp [State.outSegLast_iff, h],
      State.outEnd_eq_false (by simp [h]), State.outByte_of_ibuf (.inr h)⟩
  case point =>
    exact ⟨State.outValid_iff.mpr (by simp [h]), by simp [State.outSeg, h], State.outSegLast_iff.mpr (by simp [h]),
      State.outEnd_eq_false (by simp [h]), State.outByte_of_emitPoint h⟩
  case frac =>
    exact ⟨State.outValid_iff.mpr (by simp [h]), by simp [State.outSeg, h], by simp [State.outSegLast_iff, h],
      by simp [State.outEnd_iff, h], State.outByte_of_fbuf h⟩
  case quiet =>
    obtain hp | hp | hp | hp := h <;>
      simp [State.outValid, State.outSeg, State.outSegLast, State.outEnd, State.outByte, hp]

end Sys2Proof.Machine
end

section
/-! The command port: what a step in IDLE does with an offered command, and that no busy phase reads the port
(40_command.md R101 to R104). -/

namespace Sys2Proof.Machine

/-! ### The command taken in IDLE -/

/-- Acceptance of the command on the port leaves the registers of R101's pseudocode. -/
theorem State.accept_port (s : State) :
    s.accept s.portRaw s.portFbits s.portSigned =
      Spec.accepted s (Spec.rawField s.cfg.width s.input.cmdWord) (Spec.fbitsField s.cfg.width s.input.cmdWord)
        (Spec.signedField s.cfg.width s.input.cmdWord) := by
  have hfbits : s.portFbits = BitVec.ofNat 6 (Spec.fbitsField s.cfg.width s.input.cmdWord) := by
    rw [← State.portFbits_toNat, BitVec.ofNat_toNat, BitVec.setWidth_eq]
  rw [hfbits]
  rfl

/-- Rejection leaves the registers of R103's pseudocode. -/
theorem State.reject_eq_rejected (s : State) : s.reject = Spec.rejected s := rfl

/-- A step in IDLE runs PHASE.IDLE, with or without a command on the port, after DONE <- 0. -/
theorem step_eq_of_exec_phaseIdle {s u : State} (hidle : s.phase = .idle) (hrst : s.input.rst = false)
    (h : exec .phaseIdle s.clearDone = .next u) : step s = .next u.nextSample := by
  rw [step_eq_phase_rule hrst, hidle]
  exact congrArg (afterNext State.nextSample) h

/-- Settles O11: the three cases of PHASE.IDLE, each run as the step. -/
theorem idleStepTakesOfferedCommand : Obligations.IdleStepTakesOfferedCommand := by
  intro s hidle hrst
  rw [← State.portFbits_toNat]
  refine ⟨fun hnone => ?no_command, fun hvalid hlegal => ?legal, fun hvalid hillegal => ?illegal⟩
  case no_command =>
    rw [step_eq_of_exec_phaseIdle hidle hrst (exec_phaseIdle_of_no_command (s := s.clearDone) hnone), ← hidle]
    rfl
  case legal =>
    rw [step_eq_of_exec_phaseIdle hidle hrst (exec_phaseIdle_of_legal (s := s.clearDone) hvalid hlegal),
      State.accept_port, State.portFbits_toNat]
    rfl
  case illegal =>
    rw [step_eq_of_exec_phaseIdle hidle hrst (exec_phaseIdle_of_illegal (s := s.clearDone) hvalid hillegal),
      State.reject_eq_rejected]
    rfl

/-! ### The command port while busy -/

/-- The handshake hands on a sample that answers as the state's own does (44_emission.md R181). -/
theorem emitStep_withInput {byte : Except Fault Byte} {advance : State → State}
    (hadv : ∀ u k, advance (u.withInput k) = (advance u).withInput k) {s : State} {i : Inputs}
    (h : i.sameAnswer s.cfg s.input) :
    emitStep byte advance (s.withInput i) = afterNext (·.withInput i) (emitStep byte advance s) := by
  obtain ⟨hready, herr, hcode⟩ := h
  cases byte with
  | error e => rfl
  | ok b =>
    simp only [emitStep, State.input_withInput, hready, herr, State.countByte_withInput]
    cases hfail : s.input.snkErr with
    | true =>
      have hsink : (s.withInput i).sinkCode = s.sinkCode := hcode (herr.trans hfail)
      rw [hsink]
      rfl
    | false =>
      cases s.input.snkReady with
      | false => rfl
      | true =>
        cases s.countByte with
        | error e => rfl
        | ok t => exact congrArg Host.Outcome.next (hadv t i)

/-- The rule of a busy phase reads no input but the sink's answer, and that only in emission. -/
theorem exec_busy_phase_rule_withInput {s : State} {i : Inputs} (hbusy : s.phase ≠ .idle)
    (hans : s.outValid = true → i.sameAnswer s.cfg s.input) :
    exec s.phase.instr (s.withInput i) = afterNext (·.withInput i) (exec s.phase.instr s) := by
  rw [State.outValid_iff] at hans
  cases hp : s.phase
  case idle => exact absurd hp hbusy
  case resolve => rfl
  case intdig => exact exec_phaseIntdig_withInput s i
  case fracdig => exact exec_phaseFracdig_withInput s i
  case emitSign => exact emitStep_withInput (advance := advanceEmitSign) (fun _ _ => rfl) (hans (by simp [hp]))
  case emitInt => exact emitStep_withInput advanceEmitInt_withInput (hans (by simp [hp]))
  case emitPoint =>
    exact emitStep_withInput (byte := .ok pointByte) (advance := advanceEmitPoint) (fun _ _ => rfl)
      (hans (by simp [hp]))
  case emitFrac => exact emitStep_withInput advanceEmitFrac_withInput (hans (by simp [hp]))

/-- A busy step reads no input but rst and, in emission, the sink's answer. -/
theorem step_withInput_of_busy {s : State} {i : Inputs} (hbusy : s.phase ≠ .idle) (hrst : i.rst = s.input.rst)
    (hans : s.outValid = true → i.sameAnswer s.cfg s.input) : step (s.withInput i) = step s := by
  cases hr : s.input.rst with
  | true =>
    rw [step_of_rst hr, step_of_rst (s := s.withInput i) (hrst.trans hr)]
    rfl
  | false =>
    have hrule := exec_busy_phase_rule_withInput (s := s.clearDone) hbusy hans
    rw [step_eq_phase_rule hr, step_eq_phase_rule (s := s.withInput i) (hrst.trans hr)]
    exact (congrArg (afterNext State.nextSample) hrule).trans (afterNext_nextSample_withInput _ i)

/-- Settles O14: the command port is neither rst nor the sink's answer. -/
theorem busyStepIgnoresCommandPort : Obligations.BusyStepIgnoresCommandPort := fun _ hbusy =>
  ⟨Bool.eq_false_iff.mpr fun hready => hbusy (State.cmdReady_iff.mp hready),
    fun _ _ => step_withInput_of_busy hbusy rfl fun _ => ⟨rfl, rfl, fun _ => rfl⟩⟩

end Sys2Proof.Machine
end

section
/-! Sign resolution, the single RESOLVE step (41_sign_resolution.md R120 to R124). -/

namespace Sys2Proof.Machine

/-! ### ResolveFn, case by case (R121, R124) -/

/-- The sign bit (R121) is the bit of weight `2^(W-1)`. -/
theorem signBit_iff {wd : Width} {raw : Nat} (hraw : raw < 2 ^ wd.bits) :
    raw.testBit (wd.bits - 1) = true ↔ 2 ^ (wd.bits - 1) ≤ raw := by
  have hbits : wd.bits - 1 + 1 = wd.bits := Nat.sub_add_cancel (by have := wd.eight_le_bits; omega)
  exact ⟨Nat.ge_two_pow_of_testBit, fun hle => Nat.testBit_of_two_pow_le_and_two_pow_add_one_gt hle (hbits ▸ hraw)⟩

theorem resolveFn_of_nonneg {wd : Width} {raw f : Nat} {signed : Bool} (hraw : raw < 2 ^ wd.bits)
    (hpos : signed = false ∨ raw < 2 ^ (wd.bits - 1)) :
    resolveFn wd raw f signed = ⟨raw, false, intPart raw f, fracPart raw f⟩ :=
  if_pos (hpos.imp_right fun hlt => Bool.eq_false_iff.mpr fun hbit => hlt.not_ge ((signBit_iff hraw).mp hbit))

/-- A negative value takes one of R121's other branches; R124's test chooses between them. -/
theorem resolveFn_of_neg {wd : Width} {raw f : Nat} {signed : Bool} (hraw : raw < 2 ^ wd.bits)
    (hsigned : signed = true) (hneg : 2 ^ (wd.bits - 1) ≤ raw) :
    resolveFn wd raw f signed =
      if raw = 2 ^ (wd.bits - 1) then
        if f < wd.bits then ⟨raw, true, 2 ^ (wd.bits - f - 1), 0⟩ else ⟨raw, true, 0, raw⟩
      else ⟨2 ^ wd.bits - raw, true, intPart (2 ^ wd.bits - raw) f, fracPart (2 ^ wd.bits - raw) f⟩ := by
  have hbranch : ¬(signed = false ∨ raw.testBit (wd.bits - 1) = false) := by
    simp [hsigned, (signBit_iff hraw).mpr hneg]
  rw [resolveFn, if_neg hbranch]
  split_ifs with hmost <;> simp [hmost]

/-! ### The RESOLVE step (R120) -/

/-- RESOLVE writes what ResolveFn returns. -/
theorem exec_phaseResolve_of_resolveFn {s : State} {r : Resolved}
    (h : resolveFn s.cfg.width s.raw.toNat s.fb.toNat s.sgn = r) :
    exec .phaseResolve s = .next { s with
      mag := BitVec.ofNat 32 r.mag, pol := r.pol, irem := BitVec.ofNat 32 r.ip
      frem := BitVec.ofNat 32 r.fp, phase := .intdig } :=
  h ▸ rfl

/-- Settles O17: the four cases of ResolveFn, written into the registers. -/
theorem resolveResult : Obligations.ResolveResult := by
  rintro s W F raw rfl rfl rfl hraw -
  unfold Config.w at *
  refine ⟨fun hpos => ?nonneg, fun hsgn hmost hF => ?mostNegative, fun hsgn hmost hF => ?mostNegativeAllFrac,
    fun hsgn hneg => ?negative⟩
  case nonneg =>
    rw [exec_phaseResolve_of_resolveFn (resolveFn_of_nonneg hraw hpos), BitVec.ofNat_toNat, BitVec.setWidth_eq]
    rfl
  case mostNegative =>
    have hfn := (resolveFn_of_neg hraw hsgn hmost.ge).trans ((if_pos hmost).trans (if_pos hF))
    rw [exec_phaseResolve_of_resolveFn hfn, BitVec.ofNat_toNat, BitVec.setWidth_eq]
  case mostNegativeAllFrac =>
    have hfn := (resolveFn_of_neg hraw hsgn hmost.ge).trans ((if_pos hmost).trans (if_neg hF.not_lt))
    rw [exec_phaseResolve_of_resolveFn hfn, BitVec.ofNat_toNat, BitVec.setWidth_eq]
  case negative =>
    exact exec_phaseResolve_of_resolveFn ((resolveFn_of_neg hraw hsgn hneg.le).trans (if_neg hneg.ne'))

end Sys2Proof.Machine
end

section
/-! Integer-digit extraction, one INTDIG step (42_integer_digits.md R140, R143, R144). -/

namespace Sys2Proof.Machine

/-! ### The digit and the sign byte -/

theorem State.withIntDigit_istart_toNat {s : State} (hpos : 0 < s.istart.toNat) :
    s.withIntDigit.istart.toNat = s.istart.toNat - 1 :=
  State.istart_sub_toNat hpos

theorem State.withIntDigit_irem_toNat (s : State) : s.withIntDigit.irem.toNat = s.irem.toNat / 10 :=
  (BitVec.toNat_ofNat _ _).trans (Nat.mod_eq_of_lt ((Nat.div_le_self _ _).trans_lt s.irem.isLt))

theorem State.withIntDigit_ibuf_get (s : State) :
    s.withIntDigit.ibuf.get (s.istart.toNat - 1) = digitByte (s.irem.toNat % 10) :=
  s.ibuf.get_put_self_of_ne_zero _ (digitByte_ne_zero (Nat.mod_lt _ (by decide)))

theorem State.withIntDigit_ibuf_get_of_ne (s : State) {a : Nat} (ha : a ≠ s.istart.toNat - 1) :
    s.withIntDigit.ibuf.get a = s.ibuf.get a :=
  s.ibuf.get_put_ne _ ha

theorem State.withSign_istart_toNat {s : State} (hpos : 0 < s.istart.toNat) :
    s.withSign.istart.toNat = s.istart.toNat - 1 :=
  State.istart_sub_toNat hpos

theorem State.withSign_ibuf_get (s : State) : s.withSign.ibuf.get (s.istart.toNat - 1) = minusByte :=
  s.ibuf.get_put_self_of_ne_zero _ (by decide)

theorem State.withSign_ibuf_get_of_ne (s : State) {a : Nat} (ha : a ≠ s.istart.toNat - 1) :
    s.withSign.ibuf.get a = s.ibuf.get a :=
  s.ibuf.get_put_ne _ ha

/-! ### The INTDIG step, case by case -/

/-- A digit without a sign byte: one that is not the last, or the last one of a number that is not negative. -/
theorem exec_phaseIntdig_of_no_sign {s : State} (hpos : 0 < s.istart.toNat) (hle : s.istart.toNat ≤ s.cfg.ib)
    (hsign : ¬(s.irem.toNat / 10 = 0 ∧ s.pol = true)) :
    exec .phaseIntdig s =
      .next { s.withIntDigit with phase := if s.irem.toNat / 10 = 0 then .fracdig else s.phase } := by
  refine exec_intdig_eq_next.mpr ⟨hpos, by omega, ?_⟩
  by_cases hq : s.irem.toNat / 10 = 0
  case pos =>
    have hpol : s.pol = false := Bool.eq_false_iff.mpr fun h => hsign ⟨hq, h⟩
    rw [if_pos hq]
    exact .inl ⟨hq, finishIntdig_eq_next.mpr (.inl ⟨hpol, rfl⟩)⟩
  case neg =>
    rw [if_neg hq]
    exact .inr ⟨hq, rfl⟩

/-- The last digit of a negative number: the sign needs a second free byte (R144). -/
theorem exec_phaseIntdig_of_sign {s : State} (htwo : 2 ≤ s.istart.toNat) (hle : s.istart.toNat ≤ s.cfg.ib)
    (hq : s.irem.toNat / 10 = 0) (hpol : s.pol = true) :
    exec .phaseIntdig s = .next s.withIntDigit.withSign := by
  have hstart := State.withIntDigit_istart_toNat (s := s) (by omega)
  refine exec_intdig_eq_next.mpr ⟨by omega, by omega, .inl ⟨hq, finishIntdig_eq_next.mpr (.inr ⟨hpol, ?_, ?_, rfl⟩)⟩⟩
  · omega
  · rw [State.withIntDigit_cfg]; omega

/-- Settles O18: one digit, and the sign byte exactly with the last digit of a negative number. -/
theorem intdigResult : Obligations.IntdigResult := by
  rintro s q p rfl rfl hpos hle hroom
  by_cases hlast : s.irem.toNat / 10 = 0 ∧ s.pol = true
  case neg =>
    exact ⟨_, exec_phaseIntdig_of_no_sign hpos hle hlast, s.withIntDigit_irem_toNat, s.withIntDigit_ibuf_get,
      fun h => absurd h hlast,
      fun _ => ⟨State.withIntDigit_istart_toNat hpos, fun _ => s.withIntDigit_ibuf_get_of_ne⟩, rfl, rfl⟩
  case pos =>
    obtain ⟨hq, hpol⟩ := hlast
    have htwo : 2 ≤ s.istart.toNat := hroom hq hpol
    have hstart : s.withIntDigit.istart.toNat = s.istart.toNat - 1 := State.withIntDigit_istart_toNat hpos
    have hbelow : s.withIntDigit.istart.toNat - 1 = s.istart.toNat - 2 := by omega
    refine ⟨_, exec_phaseIntdig_of_sign htwo hle hq hpol, s.withIntDigit_irem_toNat, ?digit,
      fun _ => ⟨?start, ?sign, fun a hdigit hsign => ?frame⟩, fun h => absurd ⟨hq, hpol⟩ h, (if_pos hq).symm, rfl⟩
    case digit =>
      rw [State.withSign_ibuf_get_of_ne _ (by omega)]
      exact s.withIntDigit_ibuf_get
    case start => rw [State.withSign_istart_toNat (by omega), hbelow]
    case sign => exact hbelow ▸ s.withIntDigit.withSign_ibuf_get
    case frame => rw [State.withSign_ibuf_get_of_ne _ (by omega), s.withIntDigit_ibuf_get_of_ne hdigit]

end Sys2Proof.Machine
end

section
/-! Fraction-digit extraction, one FRACDIG step (43_fraction_digits.md R160 to R165). -/

namespace Sys2Proof.Machine

/-! ### The working copy (R161, R162) -/

theorem workCopy_eq (wd : Width) (r f : Nat) :
    workCopy wd r f = if wd.bits < f + 4 then (r >>> 4, f - 4) else (r, f) := by
  simp [workCopy, preShift]

/-- The digit of R163, from a working copy given as a pair. -/
theorem fracDigit_of_workCopy {wd : Width} {r f wv wf : Nat} (h : (wv, wf) = workCopy wd r f) :
    fracDigit wd r f = ((wv * 10 % 2 ^ wd.bits) >>> wf) % 10 := by
  rw [fracDigit, ← h]

/-! ### The digit, the count and the true remainder -/

theorem State.withFracDigit_fbuf_get (s : State) :
    s.withFracDigit.fbuf.get s.fcnt.toNat = digitByte (fracDigit s.cfg.width s.frem.toNat s.fb.toNat) :=
  s.fbuf.get_put_self_of_ne_zero _ (digitByte_ne_zero (fracDigit_lt_ten _ _ _))

theorem State.withFracDigit_fbuf_get_of_ne (s : State) {a : Nat} (ha : a ≠ s.fcnt.toNat) :
    s.withFracDigit.fbuf.get a = s.fbuf.get a :=
  s.fbuf.get_put_ne _ ha

theorem State.withFracDigit_fcnt_toNat {s : State} (hroom : s.fcnt.toNat < s.cfg.k) :
    s.withFracDigit.fcnt.toNat = s.fcnt.toNat + 1 :=
  State.fcnt_add_toNat hroom

theorem State.withFracDigit_frem_toNat (s : State) :
    s.withFracDigit.frem.toNat = nextRemainder s.cfg.width s.frem.toNat s.fb.toNat :=
  (BitVec.toNat_ofNat _ _).trans
    (Nat.mod_eq_of_lt ((nextRemainder_lt _ _ _).trans_le s.cfg.width.two_pow_bits_le))

/-! ### The FRACDIG step, case by case -/

/-- ISTART, 4 bits wide, goes into the 7-bit ECUR unchanged. -/
theorem State.istart_setWidth_toNat (s : State) : (s.istart.setWidth 7).toNat = s.istart.toNat :=
  BitVec.toNat_setWidth_of_le (by decide)

/-- This digit is the last: the true remainder after it is 0, or it fills FBUF (R160, R165). -/
def State.fracEnds (s : State) : Prop :=
  nextRemainder s.cfg.width s.frem.toNat s.fb.toNat = 0 ∨ s.fcnt.toNat + 1 = s.cfg.k

theorem exec_phaseFracdig_of_ends {s : State} (hroom : s.fcnt.toNat < s.cfg.k) (hend : s.fracEnds) :
    exec .phaseFracdig s =
      .next { s.withFracDigit with ecur := s.istart.setWidth 7, phase := if s.pol then .emitSign else .emitInt } :=
  exec_fracdig_eq_next.mpr ⟨hroom, .inl ⟨hend, rfl⟩⟩

theorem exec_phaseFracdig_of_not_ends {s : State} (hroom : s.fcnt.toNat < s.cfg.k) (hmore : ¬s.fracEnds) :
    exec .phaseFracdig s = .next s.withFracDigit :=
  exec_fracdig_eq_next.mpr ⟨hroom, .inr ⟨hmore, rfl⟩⟩

/-- Settles O19: both outcomes hold the same digit, count and remainder; only the last digit moves ECUR and PHASE. -/
theorem fracdigResult : Obligations.FracdigResult := by
  rintro s W F r n wv wf f2 rfl rfl rfl rfl hroom hcopy rfl
  have hdigit : s.withFracDigit.fbuf.get s.fcnt.toNat =
      BitVec.ofNat 8 (0x30 + ((wv * 10 % 2 ^ s.cfg.w) >>> wf) % 10) :=
    s.withFracDigit_fbuf_get.trans
      (congrArg digitByte (fracDigit_of_workCopy (hcopy.trans (workCopy_eq _ _ _).symm)))
  by_cases hend : s.fracEnds
  case pos =>
    exact ⟨_, exec_phaseFracdig_of_ends hroom hend, hdigit, fun _ => s.withFracDigit_fbuf_get_of_ne,
      State.withFracDigit_fcnt_toNat hroom, s.withFracDigit_frem_toNat,
      fun _ => ⟨s.istart_setWidth_toNat, rfl⟩, fun h => absurd hend h, rfl⟩
  case neg =>
    exact ⟨_, exec_phaseFracdig_of_not_ends hroom hend, hdigit, fun _ => s.withFracDigit_fbuf_get_of_ne,
      State.withFracDigit_fcnt_toNat hroom, s.withFracDigit_frem_toNat,
      fun h => absurd h hend, fun _ => ⟨rfl, rfl⟩, rfl⟩

end Sys2Proof.Machine
end

section
/-! The four emission steps, one handshake with its Advance (44_emission.md R181 to R185). -/

namespace Sys2Proof.Machine

/-! ### The handshake (R181) -/

/-- With a byte to offer and OCOUNT below 255 every answer of the sink gives a next state. -/
theorem emitStep_eq_handshake {byte : Except Fault Byte} {b : Byte} {advance : State → State} {s : State}
    (hbyte : byte = .ok b) (hcount : s.ocount.toNat < 255) :
    emitStep byte advance s = .next (Spec.handshake s (advance { s with ocount := s.ocount + 1#8 })) := by
  refine emitStep_eq_next.mpr ⟨⟨b, hbyte⟩, ?_⟩
  unfold Spec.handshake
  cases s.input.snkErr with
  | true => exact .inl ⟨rfl, rfl⟩
  | false =>
    cases s.input.snkReady with
    | true => exact .inr (.inl ⟨rfl, rfl, hcount, rfl⟩)
    | false => exact .inr (.inr ⟨rfl, rfl, rfl⟩)

/-! ### The Advances of EMIT_INT and EMIT_FRAC, with the end of the buffer in the natural numbers -/

/-- A cursor inside IBUF does not wrap: IB is at most 11. -/
theorem State.ecur_add_toNat_of_lt_ib {s : State} (h : s.ecur.toNat < s.cfg.ib) :
    (s.ecur + 1#7).toNat = s.ecur.toNat + 1 := by
  have hib := s.cfg.ib_le
  exact ecur_add_toNat (by omega)

/-- R183 for a cursor inside IBUF. -/
theorem advanceEmitInt_eq {s : State} (h : s.ecur.toNat < s.cfg.ib) :
    advanceEmitInt s =
      { s with
        ecur := s.ecur + 1#7
        phase := if s.ecur.toNat + 1 = s.cfg.ib then .emitPoint else s.phase } := by
  unfold advanceEmitInt
  rw [State.ecur_add_toNat_of_lt_ib h]
  split <;> rfl

/-- R185 for a cursor inside FBUF. -/
theorem advanceEmitFrac_eq {s : State} (h : s.ecur.toNat < s.cfg.k) :
    advanceEmitFrac s =
      if s.ecur.toNat + 1 = s.fcnt.toNat then
        { s with ecur := s.ecur + 1#7, result := .ok, errcode := 0#32, done := true, phase := .idle }
      else { s with ecur := s.ecur + 1#7 } := by
  unfold advanceEmitFrac
  simp only [State.ecur_add_eq_fcnt_iff h]
  rfl

/-! ### The statements -/

/-- Settles O32: the handshake over IBUF, then R183's Advance; counting the byte moves neither ECUR nor PHASE. -/
theorem emitIntResult : Obligations.EmitIntResult := fun s hcursor hcount =>
  calc exec .phaseEmitInt s
    _ = .next (Spec.handshake s (advanceEmitInt { s with ocount := s.ocount + 1#8 })) :=
      emitStep_eq_handshake (State.readIbuf_eq_ok.mpr ⟨hcursor, rfl⟩) hcount
    _ = _ := by rw [advanceEmitInt_eq (s := { s with ocount := s.ocount + 1#8 }) hcursor]

/-- Settles O34: the handshake over FBUF, then R185's Advance, whose last digit completes OK. -/
theorem emitFracResult : Obligations.EmitFracResult := fun s hcursor hcount =>
  calc exec .phaseEmitFrac s
    _ = .next (Spec.handshake s (advanceEmitFrac { s with ocount := s.ocount + 1#8 })) :=
      emitStep_eq_handshake (State.readFbuf_eq_ok.mpr ⟨hcursor, rfl⟩) hcount
    _ = _ := by rw [advanceEmitFrac_eq (s := { s with ocount := s.ocount + 1#8 }) hcursor]

/-- Settles O31: the handshake over IBUF with R182's Advance. -/
theorem emitSignResult : Obligations.EmitSignResult := fun _ hcursor hcount =>
  emitStep_eq_handshake (advance := advanceEmitSign) (State.readIbuf_eq_ok.mpr ⟨hcursor, rfl⟩) hcount

/-- Settles O33: the handshake with R184's Advance; the point is read from no buffer. -/
theorem emitPointResult : Obligations.EmitPointResult := fun _ hcount =>
  emitStep_eq_handshake (byte := .ok pointByte) (advance := advanceEmitPoint) rfl hcount

end Sys2Proof.Machine
end

section
/-! The encoder and the decoder against each other, the match and mask table and the assembled word
(30_encoding.md R70 to R78). -/

namespace Sys2Proof

/-! ### The fields of a command word, side by side (R70, R77) -/

/-- Three fields that do not overlap: the `|` of R77 is a sum. -/
theorem fields_or_eq_add {n s f raw : Nat} (hf : f < 2 ^ 6) (hraw : raw < 2 ^ n) :
    s <<< (n + 6) ||| f <<< n ||| raw = s * 2 ^ (n + 6) + f * 2 ^ n + raw := by
  have hsf : s <<< (n + 6) ||| f <<< n = (s * 2 ^ 6 + f) <<< n := by
    rw [Nat.add_comm n, Nat.shiftLeft_add, ← Nat.shiftLeft_or_distrib, ← Nat.shiftLeft_add_eq_or_of_lt hf,
      Nat.shiftLeft_eq s]
  rw [hsf, ← Nat.shiftLeft_add_eq_or_of_lt hraw, Nat.shiftLeft_eq]
  ring

theorem commandWord_eq {n : Nat} (signed : Bool) (f : BitVec 6) (raw : BitVec n) :
    commandWord signed f raw = ⟨n + 7, signed.toNat * 2 ^ (n + 6) + f.toNat * 2 ^ n + raw.toNat⟩ := by
  have hbits : ((BitVec.ofBool signed ++ f) ++ raw).toNat =
      signed.toNat <<< (n + 6) ||| f.toNat <<< n ||| raw.toNat := by
    rw [BitVec.toNat_append, BitVec.toNat_append, BitVec.toNat_ofBool, Nat.shiftLeft_or_distrib, ← Nat.shiftLeft_add,
      Nat.add_comm 6]
  rw [commandWord, hbits, fields_or_eq_add f.isLt raw.isLt]

/-! ### Decoding an encoded word -/

section
variable {n : Nat} (signed : Bool) (f : BitVec 6) (raw : BitVec n)

/-- RAW below, FBITS and S above bit W. -/
theorem commandWord_bits_eq :
    (commandWord signed f raw).bits = raw.toNat + 2 ^ n * (signed.toNat * 2 ^ 6 + f.toNat) := by
  rw [commandWord_eq]
  ring

theorem commandWord_mod : BitVec.ofNat n ((commandWord signed f raw).bits % 2 ^ n) = raw := by
  rw [commandWord_bits_eq, Nat.add_mul_mod_self_left, Nat.mod_eq_of_lt raw.isLt, BitVec.ofNat_toNat,
    BitVec.setWidth_eq]

theorem commandWord_div : (commandWord signed f raw).bits / 2 ^ n = signed.toNat * 2 ^ 6 + f.toNat := by
  rw [commandWord_bits_eq, Nat.add_mul_div_left _ _ (Nat.two_pow_pos n), Nat.div_eq_of_lt raw.isLt, Nat.zero_add]

theorem commandWord_div_mod : (commandWord signed f raw).bits / 2 ^ n % 64 = f.toNat := by
  rw [commandWord_div]
  have := f.isLt
  omega

theorem commandWord_testBit : (commandWord signed f raw).bits.testBit (n + 6) = signed := by
  rw [Nat.testBit_eq_decide_div_mod_eq, Nat.pow_add, ← Nat.div_div_eq_div_mul, commandWord_div,
    Nat.add_comm, Nat.mul_comm, Nat.add_mul_div_left _ _ (by decide), Nat.div_eq_of_lt f.isLt]
  cases signed <;> rfl

/-- The choice the three decoders make from the fields (R72 to R74), made on an encoded word: the fields are the
operands. -/
theorem choice_of_commandWord (fmtS fmtU : BitVec n → BitVec 6 → Instr) (illegal : BitVec n → BitVec 6 → Bool → Instr)
    {w : Nat} (hw : w = (commandWord signed f raw).bits) :
    (if w / 2 ^ n % 64 ≤ n then
        (if w.testBit (n + 6) then fmtS (BitVec.ofNat n (w % 2 ^ n)) (BitVec.ofNat 6 (w / 2 ^ n % 64))
          else fmtU (BitVec.ofNat n (w % 2 ^ n)) (BitVec.ofNat 6 (w / 2 ^ n % 64)))
      else illegal (BitVec.ofNat n (w % 2 ^ n)) (BitVec.ofNat 6 (w / 2 ^ n % 64)) (w.testBit (n + 6))) =
    if f.toNat ≤ n then (if signed then fmtS raw f else fmtU raw f) else illegal raw f signed := by
  rw [hw, commandWord_mod, commandWord_div_mod, commandWord_testBit, BitVec.ofNat_toNat, BitVec.setWidth_eq]

end

theorem decode_commandWord8 (signed : Bool) (f : BitVec 6) (raw : BitVec 8) :
    decode (commandWord signed f raw) =
      .ok (if f.toNat ≤ 8 then (if signed then .fmtS8 raw f else .fmtU8 raw f) else .illegalFbits8 raw f signed) :=
  (commandWordFieldsDecode.1 _ (Laws.EncodeFits.commandWord_fits signed f raw)).trans
    (congrArg _ (choice_of_commandWord signed f raw .fmtS8 .fmtU8 .illegalFbits8 rfl))

theorem decode_commandWord16 (signed : Bool) (f : BitVec 6) (raw : BitVec 16) :
    decode (commandWord signed f raw) =
      .ok (if f.toNat ≤ 16 then (if signed then .fmtS16 raw f else .fmtU16 raw f)
        else .illegalFbits16 raw f signed) :=
  (commandWordFieldsDecode.2.1 _ (Laws.EncodeFits.commandWord_fits signed f raw)).trans
    (congrArg _ (choice_of_commandWord signed f raw .fmtS16 .fmtU16 .illegalFbits16 rfl))

theorem decode_commandWord32 (signed : Bool) (f : BitVec 6) (raw : BitVec 32) :
    decode (commandWord signed f raw) =
      .ok (if f.toNat ≤ 32 then (if signed then .fmtS32 raw f else .fmtU32 raw f)
        else .illegalFbits32 raw f signed) :=
  (commandWordFieldsDecode.2.2 _ (Laws.EncodeFits.commandWord_fits signed f raw)).trans
    (congrArg _ (choice_of_commandWord signed f raw .fmtS32 .fmtU32 .illegalFbits32 rfl))

/-- Settles O1: the fields of the encoded word are the operands, and FBITS of a well-formed command is on its own side
of W. -/
theorem decodeEncodeGivesInstrBack : Obligations.DecodeEncodeGivesInstrBack := by
  intro i hwf
  cases i
  case fmtU8 raw f | fmtS8 raw f | illegalFbits8 raw f s =>
    have hside := of_decide_eq_true hwf
    exact (decode_commandWord8 _ f raw).trans (by simp [hside])
  case fmtU16 raw f | fmtS16 raw f | illegalFbits16 raw f s =>
    have hside := of_decide_eq_true hwf
    exact (decode_commandWord16 _ f raw).trans (by simp [hside])
  case fmtU32 raw f | fmtS32 raw f | illegalFbits32 raw f s =>
    have hside := of_decide_eq_true hwf
    exact (decode_commandWord32 _ f raw).trans (by simp [hside])
  all_goals rfl

/-! ### The word of a decoded instruction -/

/-- The three fields of a word, put side by side again, are the word. -/
theorem commandWord_of_fields {n : Nat} (w : BitVec (n + 7)) :
    commandWord (w.getLsbD (n + 6)) (w.extractLsb' n 6) (w.extractLsb' 0 n) = ⟨n + 7, w.toNat⟩ := by
  have htop : (w.getLsbD (n + 6)).toNat = w.toNat / 2 ^ n / 2 ^ 6 := by
    have hlt : w.toNat / 2 ^ (n + 6) < 2 := Nat.div_lt_of_lt_mul (by rw [← Nat.pow_succ]; exact w.isLt)
    rw [Nat.div_div_eq_div_mul, ← Nat.pow_add, BitVec.getLsbD, Nat.testBit_eq_decide_div_mod_eq, Nat.mod_eq_of_lt hlt]
    interval_cases w.toNat / 2 ^ (n + 6) <;> rfl
  have hmid : (w.extractLsb' n 6).toNat = w.toNat / 2 ^ n % 2 ^ 6 := by
    simp [Nat.shiftRight_eq_div_pow]
  have hlow : (w.extractLsb' 0 n).toNat = w.toNat % 2 ^ n := by simp
  have hword : w.toNat = w.toNat % 2 ^ n + 2 ^ n * (w.toNat / 2 ^ n / 2 ^ 6 * 2 ^ 6 + w.toNat / 2 ^ n % 2 ^ 6) := by
    rw [Nat.div_add_mod', Nat.mod_add_div]
  rw [commandWord, CodeWord.mk.injEq]
  exact ⟨rfl, (commandWord_bits_eq _ _ _).trans (by rw [htop, hmid, hlow, ← hword])⟩

/-- The choice the three decoders make (R72 to R74) gives a well-formed instruction, and one whose encoding has the
fields the choice was made from. -/
theorem own_word_of_choice {n : Nat} {raw : BitVec n} {f : BitVec 6} {signed : Bool} {fmtS fmtU illegal : Instr}
    (hS : fmtS.wf = decide (f.toNat ≤ n) ∧ encode fmtS = commandWord true f raw)
    (hU : fmtU.wf = decide (f.toNat ≤ n) ∧ encode fmtU = commandWord false f raw)
    (hI : illegal.wf = decide (n < f.toNat) ∧ encode illegal = commandWord signed f raw) {i : Instr}
    (hi : i = if f.toNat ≤ n then (if signed then fmtS else fmtU) else illegal) :
    i.wf = true ∧ encode i = commandWord signed f raw := by
  subst hi
  split
  case isTrue hlegal =>
    cases signed with
    | true => exact ⟨hS.1.trans (decide_eq_true hlegal), hS.2⟩
    | false => exact ⟨hU.1.trans (decide_eq_true hlegal), hU.2⟩
  case isFalse hillegal => exact ⟨hI.1.trans (decide_eq_true (Nat.lt_of_not_le hillegal)), hI.2⟩

theorem decode8_own_word (w : BitVec 15) : (decode8 w).wf = true ∧ encode (decode8 w) = ⟨15, w.toNat⟩ :=
  commandWord_of_fields (n := 8) w ▸
    own_word_of_choice (fmtS := .fmtS8 _ _) (fmtU := .fmtU8 _ _) (illegal := .illegalFbits8 _ _ _)
      ⟨rfl, rfl⟩ ⟨rfl, rfl⟩ ⟨rfl, rfl⟩ rfl

theorem decode16_own_word (w : BitVec 23) : (decode16 w).wf = true ∧ encode (decode16 w) = ⟨23, w.toNat⟩ :=
  commandWord_of_fields (n := 16) w ▸
    own_word_of_choice (fmtS := .fmtS16 _ _) (fmtU := .fmtU16 _ _) (illegal := .illegalFbits16 _ _ _)
      ⟨rfl, rfl⟩ ⟨rfl, rfl⟩ ⟨rfl, rfl⟩ rfl

theorem decode32_own_word (w : BitVec 39) : (decode32 w).wf = true ∧ encode (decode32 w) = ⟨39, w.toNat⟩ :=
  commandWord_of_fields (n := 32) w ▸
    own_word_of_choice (fmtS := .fmtS32 _ _) (fmtU := .fmtU32 _ _) (illegal := .illegalFbits32 _ _ _)
      ⟨rfl, rfl⟩ ⟨rfl, rfl⟩ ⟨rfl, rfl⟩ rfl

theorem decodePhase_own_word (c : BitVec 3) : (decodePhase c).wf = true ∧ encode (decodePhase c) = ⟨3, c.toNat⟩ := by
  revert c
  decide

/-- A width's own decoder takes a value that fits the width, as the word of that many wires. -/
theorem eq_of_fitting_word {m bits : Nat} {i : Instr} {decoder : BitVec m → Instr} {e : DecodeError}
    (h : (if bits < 2 ^ m then Except.ok (decoder (BitVec.ofNat m bits)) else .error e) = .ok i) :
    ∃ w : BitVec m, (⟨m, bits⟩ : CodeWord) = ⟨m, w.toNat⟩ ∧ i = decoder w := by
  split at h
  case isTrue hlt =>
    cases h
    exact ⟨_, by rw [BitVec.toNat_ofNat, Nat.mod_eq_of_lt hlt], rfl⟩
  case isFalse => cases h

/-- A word the decoder takes is a word of 3, 15, 23 or 39 wires, read by the decoder of that width. -/
theorem decode_eq_ok {c : CodeWord} {i : Instr} (h : decode c = .ok i) :
    (∃ w : BitVec 3, c = ⟨3, w.toNat⟩ ∧ i = decodePhase w) ∨ (∃ w : BitVec 15, c = ⟨15, w.toNat⟩ ∧ i = decode8 w) ∨
    (∃ w : BitVec 23, c = ⟨23, w.toNat⟩ ∧ i = decode16 w) ∨ (∃ w : BitVec 39, c = ⟨39, w.toNat⟩ ∧ i = decode32 w) := by
  obtain ⟨width, bits⟩ := c
  unfold decode at h
  dsimp only at h
  split at h
  case h_1 => exact .inl (eq_of_fitting_word h)
  case h_2 => exact .inr (.inl (eq_of_fitting_word h))
  case h_3 => exact .inr (.inr (.inl (eq_of_fitting_word h)))
  case h_4 => exact .inr (.inr (.inr (eq_of_fitting_word h)))
  case h_5 => cases h

/-- Settles O2: width by width, the fields of the word are the operands of the instruction. -/
theorem decodedWordIsInstrsOwnWord : Obligations.DecodedWordIsInstrsOwnWord := by
  intro c i h
  obtain ⟨w, rfl, rfl⟩ | ⟨w, rfl, rfl⟩ | ⟨w, rfl, rfl⟩ | ⟨w, rfl, rfl⟩ := decode_eq_ok h
  · exact decodePhase_own_word w
  · exact decode8_own_word w
  · exact decode16_own_word w
  · exact decode32_own_word w

/-! ### The match and mask table (R75) -/

/-- Every row masks bit W + 6, and matches the value S gives it. -/
theorem matchRows_eq :
    ∀ r ∈ matchRows, r.pattern = r.variant.toNat * 2 ^ (r.width.bits + 6) ∧ r.mask = 2 ^ (r.width.bits + 6) := by
  decide

/-- A word is in a row when S is the row's variant and FBITS is legal. -/
theorem MatchRow.hits_iff {r : MatchRow} (hr : r ∈ matchRows) (w : Nat) :
    r.hits w = true ↔ w.testBit (r.width.bits + 6) = r.variant ∧ w / 2 ^ r.width.bits % 64 ≤ r.width.bits := by
  obtain ⟨hpattern, hmask⟩ := matchRows_eq r hr
  have hbit (a b : Bool) : a.toNat = b.toNat ↔ a = b := by revert a b; decide
  rw [MatchRow.hits, decide_eq_true_eq, hpattern, hmask, Nat.and_two_pow, Nat.shiftRight_eq_div_pow,
    Nat.mul_left_inj (Nat.two_pow_pos _).ne', hbit]
  rfl

theorem variantOf_choice {wd : Width} {legal : Prop} [Decidable legal] {signed v : Bool} {fmtS fmtU illegal : Instr}
    (hS : Spec.variantOf fmtS = some (true, wd)) (hU : Spec.variantOf fmtU = some (false, wd))
    (hI : Spec.variantOf illegal = none) :
    Spec.variantOf (if legal then (if signed then fmtS else fmtU) else illegal) = some (v, wd) ↔
      signed = v ∧ legal := by
  by_cases hlegal : legal <;> cases signed <;> simp [hlegal, hS, hU, hI]

/-- A command word decodes to the variant S of its own W exactly when FBITS is legal. -/
theorem exists_decode_variantOf (wd : Width) {w : Nat} (hw : w < 2 ^ wd.cw) :
    ∃ i, decode ⟨wd.cw, w⟩ = .ok i ∧ ∀ v, Spec.variantOf i = some (v, wd) ↔
      w.testBit (wd.bits + 6) = v ∧ w / 2 ^ wd.bits % 64 ≤ wd.bits := by
  obtain ⟨h8, h16, h32⟩ := commandWordFieldsDecode
  cases wd with
  | w8 => exact ⟨_, h8 w hw, fun v => variantOf_choice rfl rfl rfl⟩
  | w16 => exact ⟨_, h16 w hw, fun v => variantOf_choice rfl rfl rfl⟩
  | w32 => exact ⟨_, h32 w hw, fun v => variantOf_choice rfl rfl rfl⟩

/-- Settles O4: row and decoder test the same bit and the same bound. -/
theorem matchRowsDecideVariant : Obligations.MatchRowsDecideVariant := by
  intro r hr w hw
  obtain ⟨i, hi, hvariant⟩ := exists_decode_variantOf r.width hw
  rw [MatchRow.hits_iff hr, ← hvariant, hi]
  simp

/-! ### Sample words and the command port -/

/-- Settles O5: ten words, decoded. -/
theorem sampleWordsDecode : Obligations.SampleWordsDecode :=
  ⟨rfl, rfl, rfl, rfl, rfl, rfl, rfl, rfl, rfl, rfl⟩

/-- The CW low wires of the port, as a table word, decode to the port's command (10_state.md R33). -/
theorem decode_port (wd : Width) (w : BitVec 39) :
    decode ⟨wd.cw, w.toNat % 2 ^ wd.cw⟩ = .ok (decodeCommand wd w) := by
  have hlt := Nat.mod_lt w.toNat (Nat.two_pow_pos wd.cw)
  have hport : BitVec.ofNat wd.cw (w.toNat % 2 ^ wd.cw) = w.setWidth wd.cw :=
    BitVec.eq_of_toNat_eq (by simp)
  cases wd with
  | w8 => exact (decode_of_lt8 hlt).trans (congrArg (Except.ok ∘ decode8) hport)
  | w16 => exact (decode_of_lt16 hlt).trans (congrArg (Except.ok ∘ decode16) hport)
  | w32 => exact (decode_of_lt32 hlt).trans (congrArg (Except.ok ∘ decode32) (hport.trans w.setWidth_eq))

end Sys2Proof

namespace Sys2Proof.Machine

/-- Settles O40: what the step fetches is what the decoder answers, on the port or on the PHASE code. -/
theorem stepRunsDecodedInstruction : Obligations.StepRunsDecodedInstruction := by
  intro s i hrst _
  rw [step_of_not_rst hrst]
  constructor
  · intro hcommand hi
    rw [State.fetch, if_pos hcommand, Except.ok.inj ((decode_port _ _).symm.trans hi)]
  · intro hphase hi
    rw [State.fetch, if_neg hphase, Except.ok.inj (s.phase.decode_code.symm.trans hi)]

/-! ### The assembled word (R77) -/

theorem assembleCommand_of_nonneg {wd : Width} {signed : Bool} {raw f : Nat} (hraw : raw < 2 ^ wd.bits) (hf : f ≤ 63) :
    assembleCommand wd signed raw f =
      some ⟨wd.bits + 7, signed.toNat * 2 ^ (wd.bits + 6) + f * 2 ^ wd.bits + raw⟩ := by
  have hrange : (0 : Int) ≤ raw ∧ (raw : Int) < 2 ^ wd.bits := ⟨Int.natCast_nonneg _, by exact_mod_cast hraw⟩
  rw [assembleCommand, if_neg (by omega), if_pos hrange, Int.toNat_natCast, fields_or_eq_add (by omega) hraw]
  rfl

/-- A negative literal of FMT.S stands for its two's complement. -/
theorem assembleCommand_of_neg {wd : Width} {n f : Nat} (hpos : 1 ≤ n) (hn : n ≤ 2 ^ (wd.bits - 1)) (hf : f ≤ 63) :
    assembleCommand wd true (-(n : Int)) f =
      some ⟨wd.bits + 7, 2 ^ (wd.bits + 6) + f * 2 ^ wd.bits + (2 ^ wd.bits - n)⟩ := by
  have hle : n ≤ 2 ^ wd.bits := hn.trans (Nat.pow_le_pow_right (by decide) (Nat.sub_le _ _))
  have hcomplement : (-(n : Int) + 2 ^ wd.bits).toNat = 2 ^ wd.bits - n := by
    have hcast : ((2 ^ wd.bits : Nat) : Int) = 2 ^ wd.bits := by norm_cast
    omega
  have hrange : true = true ∧ -(2 ^ (wd.bits - 1)) ≤ -(n : Int) ∧ -(n : Int) < 0 :=
    ⟨rfl, neg_le_neg (by exact_mod_cast hn), by omega⟩
  rw [assembleCommand, if_neg (by omega), if_neg (by omega), if_pos hrange, hcomplement,
    fields_or_eq_add (by omega) (by have := Nat.two_pow_pos wd.bits; omega)]
  simp [Width.cw]

/-- A literal outside both ranges, or FBITS above 63, does not assemble. -/
theorem assembleCommand_eq_none {wd : Width} {signed : Bool} {raw : Int} {f : Nat}
    (h : f ≤ 63 → ¬(0 ≤ raw ∧ raw < 2 ^ wd.bits) ∧ ¬(signed = true ∧ -(2 ^ (wd.bits - 1)) ≤ raw ∧ raw < 0)) :
    assembleCommand wd signed raw f = none := by
  unfold assembleCommand
  by_cases hf : 63 < f
  · rw [if_pos hf]
  · obtain ⟨hunsigned, hsigned⟩ := h (by omega)
    rw [if_neg hf, if_neg hunsigned, if_neg hsigned]

/-- Settles O7: the two ranges of literals that assemble, and what lies outside them. -/
theorem assembledCommandWord : Obligations.AssembledCommandWord := by
  intro wd signed f
  refine ⟨fun _ => assembleCommand_of_nonneg, fun _ => assembleCommand_of_neg, fun n hpos => ?unsigned,
    fun n hn => ?tooLow, fun raw hout => ?tooHigh⟩
  case unsigned =>
    refine assembleCommand_eq_none fun _ => ⟨fun h => ?_, fun h => Bool.noConfusion h.1⟩
    omega
  case tooLow =>
    have hlow : -(n : Int) < -(2 ^ (wd.bits - 1)) := neg_lt_neg (by exact_mod_cast hn)
    have hpos : (0 : Int) < 2 ^ (wd.bits - 1) := by positivity
    refine assembleCommand_eq_none fun _ => ⟨fun h => ?_, fun h => ?_⟩ <;> omega
  case tooHigh =>
    have hpos : (0 : Int) < 2 ^ wd.bits := by positivity
    refine assembleCommand_eq_none fun hf => ⟨fun h => ?_, fun h => ?_⟩ <;> omega

end Sys2Proof.Machine
end

section
/-! Sign resolution as one negation, its value and its ranges (41_sign_resolution.md R125 to R127). -/

namespace Sys2Proof.Machine

theorem two_mul_two_pow_pred_bits (wd : Width) : 2 * 2 ^ (wd.bits - 1) = 2 ^ wd.bits := by
  rw [← Nat.pow_succ', Nat.succ_eq_add_one, Nat.sub_add_cancel (by have := wd.eight_le_bits; omega)]

/-- The most-negative value's own case (R124) agrees with the negation of the others. -/
theorem resolveFn_of_neg_eq {wd : Width} {raw F : Nat} {signed : Bool} (hraw : raw < 2 ^ wd.bits) (hF : F ≤ wd.bits)
    (hsigned : signed = true) (hneg : 2 ^ (wd.bits - 1) ≤ raw) :
    resolveFn wd raw F signed =
      ⟨2 ^ wd.bits - raw, true, (2 ^ wd.bits - raw) / 2 ^ F, (2 ^ wd.bits - raw) % 2 ^ F⟩ := by
  have hdouble := two_mul_two_pow_pred_bits wd
  rw [resolveFn_of_neg hraw hsigned hneg]
  split_ifs with hmost hlt
  · have hself : 2 ^ wd.bits - raw = raw := by omega
    have hdvd : 2 ^ F ∣ 2 ^ (wd.bits - 1) := Nat.pow_dvd_pow 2 (by omega)
    rw [hself, hmost, Nat.pow_div (by omega) (by decide), Nat.mod_eq_zero_of_dvd hdvd, Nat.sub_right_comm]
  · have hself : 2 ^ wd.bits - raw = raw := by omega
    obtain rfl : F = wd.bits := by omega
    rw [hself, Nat.div_eq_of_lt hraw, Nat.mod_eq_of_lt hraw]
  · rw [intPart_eq_div, fracPart_eq_mod]

/-- What sign resolution returns: the raw value, or the negated one when the sign bit counts. -/
theorem resolveFn_cases {wd : Width} {raw F : Nat} (signed : Bool) (hraw : raw < 2 ^ wd.bits) (hF : F ≤ wd.bits) :
    ((signed = false ∨ raw < 2 ^ (wd.bits - 1)) ∧
      resolveFn wd raw F signed = ⟨raw, false, raw / 2 ^ F, raw % 2 ^ F⟩) ∨
    (signed = true ∧ 2 ^ (wd.bits - 1) ≤ raw ∧
      resolveFn wd raw F signed =
        ⟨2 ^ wd.bits - raw, true, (2 ^ wd.bits - raw) / 2 ^ F, (2 ^ wd.bits - raw) % 2 ^ F⟩) := by
  by_cases hpos : signed = false ∨ raw < 2 ^ (wd.bits - 1)
  · refine .inl ⟨hpos, (resolveFn_of_nonneg hraw hpos).trans ?_⟩
    rw [intPart_eq_div, fracPart_eq_mod]
  · rw [not_or, Bool.not_eq_false, Nat.not_lt] at hpos
    exact .inr ⟨hpos.1, hpos.2, resolveFn_of_neg_eq hraw hF hpos.1 hpos.2⟩

/-- Settles O20: in both cases MAG is the word the one negator gives. -/
theorem resolveIsOneNegator : Obligations.ResolveIsOneNegator := by
  intro wd raw F signed hraw hF
  have hbit := signBit_iff hraw
  obtain ⟨hpos, hfn⟩ | ⟨hsigned, hneg, hfn⟩ := resolveFn_cases signed hraw hF
  · have hoff : (signed && raw.testBit (wd.bits - 1)) = false := by
      rw [Bool.and_eq_false_iff, ← Bool.not_eq_true (raw.testBit _), hbit]
      exact hpos.imp_right Nat.not_le_of_lt
    rw [hfn, hoff]
    rfl
  · have hon : (signed && raw.testBit (wd.bits - 1)) = true := by simp [hsigned, hbit.mpr hneg]
    have hmod : (2 ^ wd.bits - raw) % 2 ^ wd.bits = 2 ^ wd.bits - raw :=
      Nat.mod_eq_of_lt (by have := Nat.two_pow_pos (wd.bits - 1); omega)
    simp [hfn, hon, hmod]

/-- Integer and fractional part together are the number. -/
theorem div_two_pow_eq_parts (n F : Nat) : (n : ℚ) / 2 ^ F = (n / 2 ^ F : Nat) + (n % 2 ^ F : Nat) / 2 ^ F := by
  have hparts : (n : ℚ) = 2 ^ F * (n / 2 ^ F : Nat) + (n % 2 ^ F : Nat) := by exact_mod_cast (Nat.div_add_mod n _).symm
  field_simp
  linarith

/-- The value a signed raw word denotes (R11), with the sign bit clear and set. -/
theorem toInt_ofNat_of_nonneg {wd : Width} {raw : Nat} (hpos : raw < 2 ^ (wd.bits - 1)) :
    (BitVec.ofNat wd.bits raw).toInt = raw := by
  have hdouble := two_mul_two_pow_pred_bits wd
  rw [BitVec.toInt_eq_toNat_of_lt] <;> rw [BitVec.toNat_ofNat, Nat.mod_eq_of_lt (by omega)]
  omega

theorem toInt_ofNat_of_neg {wd : Width} {raw : Nat} (hraw : raw < 2 ^ wd.bits) (hneg : 2 ^ (wd.bits - 1) ≤ raw) :
    (BitVec.ofNat wd.bits raw).toInt = -((2 ^ wd.bits - raw : Nat) : Int) := by
  have hdouble := two_mul_two_pow_pred_bits wd
  rw [BitVec.toInt_eq_toNat_cond, BitVec.toNat_ofNat, Nat.mod_eq_of_lt hraw, if_neg (by omega)]
  omega

/-- Settles O21: MAG over 2^F splits into its parts, and MAG with POL is the value of the word. -/
theorem resolveKeepsTheValue : Obligations.ResolveKeepsTheValue := by
  intro wd raw F signed hraw hF
  obtain ⟨hpos, hfn⟩ | ⟨hsigned, hneg, hfn⟩ := resolveFn_cases signed hraw hF
  · have hvalue : (if signed then (BitVec.ofNat wd.bits raw).toInt else (raw : Int)) = raw := by
      split_ifs with hsigned
      · exact toInt_ofNat_of_nonneg (hpos.resolve_left (by simp [hsigned]))
      · rfl
    rw [hvalue, hfn, Int.cast_natCast, div_two_pow_eq_parts]
    simp
  · rw [if_pos hsigned, toInt_ofNat_of_neg hraw hneg, hfn, Int.cast_neg, Int.cast_natCast, neg_div,
      div_two_pow_eq_parts]
    simp

/-- Settles O22: the magnitude's range, and that of its parts. -/
theorem resolveRanges : Obligations.ResolveRanges := by
  rintro wd raw F signed r hraw hF rfl
  have hdouble := two_mul_two_pow_pred_bits wd
  have hpow := Nat.two_pow_pos (wd.bits - 1)
  have hfrac (n : Nat) : n % 2 ^ F ≤ 2 ^ F - 1 := Nat.le_pred_of_lt (Nat.mod_lt _ (Nat.two_pow_pos F))
  simp only [Nat.shiftRight_eq_div_pow]
  obtain ⟨hpos, hfn⟩ | ⟨hsigned, hneg, hfn⟩ := resolveFn_cases signed hraw hF <;> rw [hfn]
  · have hneither : ¬(signed = true ∧ 2 ^ (wd.bits - 1) ≤ raw) := fun ⟨hsigned, hneg⟩ =>
      hpos.elim (by simp [hsigned]) hneg.not_gt
    exact ⟨hraw, hfrac _, fun h => Bool.noConfusion h, fun _ => Nat.div_le_div_right (by omega),
      fun h => Bool.noConfusion h, fun h => absurd h hneither⟩
  · exact ⟨by dsimp only; omega, hfrac _,
      fun _ => ⟨by dsimp only; omega, by dsimp only; omega, Nat.div_le_div_right (by omega)⟩,
      fun h => Bool.noConfusion h, fun _ => ⟨hsigned, hneg⟩, fun _ => rfl⟩

end Sys2Proof.Machine
end

section
/-! The digit lists: the integer digits are the numeral (42_integer_digits.md R141, R142), each fractional digit and
remainder without its wrap-around, their number and their precision (43_fraction_digits.md R163 to R168), and the form
of FORMAT (30_encoding.md R83). -/

namespace Sys2Proof.Machine

/-! ### Integer digits -/

theorem intDigits_of_lt_ten {x : Nat} (h : x < 10) : intDigits x = [x] := by
  rw [intDigits_eq (by omega), if_pos (by omega), Nat.mod_eq_of_lt h]

theorem intDigits_of_ten_le {x : Nat} (h : x < 2 ^ 32) (hten : 10 ≤ x) :
    intDigits x = intDigits (x / 10) ++ [x % 10] := by
  rw [intDigits_eq h, if_neg (by omega)]

theorem intDigits_eq_numeral {x : Nat} (h : x < 2 ^ 32) :
    intDigits x = if x = 0 then [0] else (Nat.digits 10 x).reverse := by
  induction x using Nat.strong_induction_on with
  | _ x ih =>
    by_cases hx : x < 10
    · rw [intDigits_of_lt_ten hx]
      split_ifs with h0
      · rw [h0]
      · rw [Nat.digits_of_lt 10 x h0 hx, List.reverse_singleton]
    · rw [intDigits_of_ten_le h (by omega), ih (x / 10) (by omega) (by omega), if_neg (by omega), if_neg (by omega),
        Nat.digits_def' (by decide) (n := x) (by omega), List.reverse_cons]

theorem intDigits_length_pos {x : Nat} (h : x < 2 ^ 32) : 1 ≤ (intDigits x).length := by
  rw [intDigits_eq h]
  split_ifs <;> simp

theorem intDigits_length_le {wd : Width} {x : Nat} (h : x < 2 ^ wd.bits) : (intDigits x).length ≤ wd.digits := by
  rw [intDigits_eq_numeral (h.trans_le wd.two_pow_bits_le)]
  split_ifs
  · cases wd <;> decide
  · rw [List.length_reverse, Nat.digits_length_le_iff (by decide)]
    exact h.trans wd.two_pow_bits_lt_ten_pow

theorem intDigits_lt_ten {x : Nat} (h : x < 2 ^ 32) : ∀ d ∈ intDigits x, d < 10 := by
  rw [intDigits_eq_numeral h]
  split_ifs
  · simp
  · exact fun d hd => Nat.digits_lt_base (by decide) (List.mem_reverse.mp hd)

/-- Only the number 0 has a leading zero. -/
theorem intDigits_head {x : Nat} (h : x < 2 ^ 32) (hzero : (intDigits x).head? = some 0) : intDigits x = [0] := by
  rw [intDigits_eq_numeral h] at hzero ⊢
  split_ifs at hzero ⊢ with hx
  · rfl
  · have hne : Nat.digits 10 x ≠ [] := Nat.digits_ne_nil_iff_ne_zero.mpr hx
    rw [List.head?_reverse, List.getLast?_eq_some_getLast hne] at hzero
    exact absurd (Option.some.inj hzero) (Nat.getLast_digit_ne_zero 10 hx)

/-- Settles O23: the loop of R141 makes the numeral, and a W-bit number has at most D(W) digits. -/
theorem intDigitsAreTheNumeral : Obligations.IntDigitsAreTheNumeral := fun wd _ hx =>
  have hx32 := hx.trans_le wd.two_pow_bits_le
  ⟨intDigits_eq_numeral hx32, intDigits_length_pos hx32, intDigits_length_le hx⟩

/-! ### One fractional digit and the remainder after it -/

/-- R161's choice leaves four bits of headroom, and the working copy is below its own 1. -/
theorem workCopy_headroom {wd : Width} {r F : Nat} (hF : F ≤ wd.bits) (hr : r < 2 ^ F) :
    (workCopy wd r F).2 + 4 ≤ wd.bits ∧ (workCopy wd r F).1 < 2 ^ (workCopy wd r F).2 := by
  have hbits := wd.eight_le_bits
  rw [workCopy_eq]
  split_ifs with hshift
  · refine ⟨by dsimp only; omega, ?_⟩
    have hsplit : 2 ^ F = 2 ^ (F - 4) * 2 ^ 4 := by rw [← Nat.pow_add, Nat.sub_add_cancel (by omega)]
    dsimp only
    rw [Nat.shiftRight_eq_div_pow, Nat.div_lt_iff_lt_mul (by decide), ← hsplit]
    exact hr
  · exact ⟨by dsimp only; omega, hr⟩

/-- R163 without its wrap-around: ten times the copy fits W bits and is below ten units. -/
theorem fracDigit_eq {wd : Width} {r F : Nat} (hF : F ≤ wd.bits) (hr : r < 2 ^ F) :
    fracDigit wd r F = 10 * (workCopy wd r F).1 / 2 ^ (workCopy wd r F).2 := by
  obtain ⟨hroom, hlt⟩ := workCopy_headroom hF hr
  unfold fracDigit
  generalize (workCopy wd r F).1 = wv, (workCopy wd r F).2 = wf at hroom hlt ⊢
  have hfits : wv * 10 < 2 ^ wd.bits :=
    calc wv * 10 < 2 ^ wf * 2 ^ 4 := by omega
      _ = 2 ^ (wf + 4) := (Nat.pow_add 2 wf 4).symm
      _ ≤ 2 ^ wd.bits := Nat.pow_le_pow_right (by decide) hroom
  have hdigit : wv * 10 / 2 ^ wf < 10 := by
    rw [Nat.div_lt_iff_lt_mul (Nat.two_pow_pos wf)]
    omega
  rw [Nat.mod_eq_of_lt hfits, Nat.shiftRight_eq_div_pow, Nat.mod_eq_of_lt hdigit, Nat.mul_comm]

/-- Settles O24: the digit without its wrap-around, and a number taken mod 10. -/
theorem fracDigitNeverWraps : Obligations.FracDigitNeverWraps := fun wd r F hF hr =>
  ⟨fracDigit_eq hF (le_fracMask_iff.mp hr), Nat.le_of_lt_succ (fracDigit_lt_ten wd r F)⟩

/-- R164 without its wrap-around: the bits above W lie above F too. -/
theorem nextRemainder_eq_mod {wd : Width} {F : Nat} (r : Nat) (hF : F ≤ wd.bits) :
    nextRemainder wd r F = 10 * r % 2 ^ F := by
  rw [nextRemainder_eq, Nat.mod_mod_of_dvd _ (Nat.pow_dvd_pow 2 hF), Nat.mul_comm]

/-- Settles O25: both reductions are by a power of 2, and the smaller one decides. -/
theorem remainderUpdateIsExact : Obligations.RemainderUpdateIsExact := fun _ r _ hF => nextRemainder_eq_mod r hF

theorem fracDigit_of_headroom {wd : Width} {r F : Nat} (hF : F + 4 ≤ wd.bits) (hr : r < 2 ^ F) :
    fracDigit wd r F = 10 * r / 2 ^ F := by
  have hcopy : workCopy wd r F = (r, F) := by rw [workCopy_eq, if_neg (by omega)]
  rw [fracDigit_eq (by omega) hr, hcopy]

theorem fracDigit_of_preShift {wd : Width} {r F : Nat} (hF : F ≤ wd.bits) (hr : r < 2 ^ F) (hshift : wd.bits < F + 4) :
    fracDigit wd r F = 160 * (r / 16) / 2 ^ F := by
  have hbits := wd.eight_le_bits
  have hcopy : workCopy wd r F = (r / 16, F - 4) := by rw [workCopy_eq, if_pos hshift, Nat.shiftRight_eq_div_pow]
  have hsplit : 2 ^ F = 16 * 2 ^ (F - 4) := by rw [← Nat.pow_add 2 4, Nat.add_sub_cancel' (by omega)]
  rw [fracDigit_eq hF hr, hcopy, hsplit, ← Nat.mul_div_mul_left (10 * (r / 16)) _ (show 0 < 16 by decide),
    ← Nat.mul_assoc]

/-- Dropping the low four bits of `r` costs a digit at most 1 + 118 / p: 160 (r / 16) is a multiple of 32, so it is at
least 32 short of the next multiple of p, and 10 r is at most 150 above it. -/
theorem dropped_bits_deficit {r p : Nat} (hp : 32 ∣ p) (hpos : 0 < p) :
    160 * (r / 16) / p ≤ 10 * r / p ∧ 10 * r / p ≤ 160 * (r / 16) / p + 1 + 118 / p := by
  refine ⟨Nat.div_le_div_right (by omega), ?_⟩
  have hrem : 160 * (r / 16) % p + 32 ≤ p := by
    have hlt := Nat.mod_lt (160 * (r / 16)) hpos
    have hdvd : 32 ∣ 160 * (r / 16) % p := (Nat.dvd_mod_iff hp).mpr ⟨5 * (r / 16), by ring⟩
    omega
  have hdecomp := Nat.div_add_mod (160 * (r / 16)) p
  calc 10 * r / p
    _ ≤ (118 + p * (160 * (r / 16) / p + 1)) / p := by
      refine Nat.div_le_div_right ?_
      rw [Nat.mul_add]
      omega
    _ = 118 / p + (160 * (r / 16) / p + 1) := Nat.add_mul_div_left _ _ hpos
    _ = 160 * (r / 16) / p + 1 + 118 / p := Nat.add_comm _ _

/-- Settles O26: with the pre-shift the digit is that of the number without its four low bits. -/
theorem digitDeficitBound : Obligations.DigitDeficitBound := by
  intro wd r F hF hr
  refine ⟨fun hroom => fracDigit_of_headroom hroom hr, fun hshift => ?_⟩
  have hbits := wd.eight_le_bits
  rw [fracDigit_of_preShift hF hr hshift]
  exact dropped_bits_deficit (Nat.pow_dvd_pow 2 (show 5 ≤ F by omega)) (Nat.two_pow_pos F)

/-! ### How many fractional digits -/

theorem fracDigitsLoop_length_le (wd : Width) (F n r : Nat) : (fracDigitsLoop wd F n r).length ≤ n := by
  induction n generalizing r with
  | zero => exact Nat.le_refl 0
  | succ n ih =>
    rw [fracDigitsLoop_succ]
    split_ifs
    · simp
    · exact Nat.succ_le_succ (ih _)

theorem fracDigitsLoop_lt_ten (wd : Width) (F n r : Nat) : ∀ d ∈ fracDigitsLoop wd F n r, d < 10 := by
  induction n generalizing r with
  | zero => simp [fracDigitsLoop_zero]
  | succ n ih =>
    rw [fracDigitsLoop_succ, List.forall_mem_cons]
    refine ⟨fracDigit_lt_ten wd r F, ?_⟩
    split_ifs
    · simp
    · exact ih _

theorem padicValNat_two_ten_mul {r : Nat} (hr : r ≠ 0) : padicValNat 2 (10 * r) = padicValNat 2 r + 1 := by
  have hodd : padicValNat 2 5 = 0 := padicValNat.eq_zero_of_not_dvd (by decide)
  rw [show 10 * r = 2 * (5 * r) by ring, padicValNat.mul (by decide) (by omega), padicValNat.mul (by decide) hr, hodd,
    padicValNat_self]
  omega

/-- A multiplication by 10 raises the power of 2 in the remainder by one, until the remainder is 0. -/
theorem padicValNat_two_ten_mul_mod {r F : Nat} (hr : r ≠ 0) (hne : 10 * r % 2 ^ F ≠ 0) :
    padicValNat 2 (10 * r % 2 ^ F) = padicValNat 2 r + 1 := by
  have hten : 10 * r ≠ 0 := by omega
  have hlt : 10 * r % 2 ^ F < 2 ^ F := Nat.mod_lt _ (Nat.two_pow_pos F)
  have hsame {k : Nat} (hk : k ≤ F) : 2 ^ k ∣ 10 * r % 2 ^ F ↔ 2 ^ k ∣ 10 * r :=
    Nat.dvd_mod_iff (Nat.pow_dvd_pow 2 hk)
  have hbelow {k : Nat} (hk : 2 ^ k ∣ 10 * r % 2 ^ F) : k ≤ F :=
    ((Nat.pow_lt_pow_iff_right (by decide)).mp ((Nat.le_of_dvd (by omega) hk).trans_lt hlt)).le
  rw [← padicValNat_two_ten_mul hr]
  refine Nat.le_antisymm ?_ ?_
  · rw [← padicValNat_dvd_iff_le hten, ← hsame (hbelow pow_padicValNat_dvd)]
    exact pow_padicValNat_dvd
  · have hF : padicValNat 2 (10 * r) ≤ F := by
      by_contra hgt
      exact hne (Nat.mod_eq_zero_of_dvd ((padicValNat_dvd_iff_le hten).mpr (by omega)))
    rw [← padicValNat_dvd_iff_le hne, hsame hF]
    exact pow_padicValNat_dvd

/-- The remainder is 0 after a digit exactly when one bit was left. -/
theorem ten_mul_mod_eq_zero_iff {r F : Nat} (hr : r ≠ 0) : 10 * r % 2 ^ F = 0 ↔ F ≤ padicValNat 2 r + 1 := by
  rw [← padicValNat_two_ten_mul hr, ← padicValNat_dvd_iff_le (by omega), Nat.dvd_iff_mod_eq_zero]

theorem padicValNat_two_lt {r F : Nat} (hr : r ≠ 0) (hlt : r < 2 ^ F) : padicValNat 2 r < F :=
  (Nat.pow_lt_pow_iff_right (by decide)).mp ((Nat.le_of_dvd (by omega) pow_padicValNat_dvd).trans_lt hlt)

theorem fracDigitsLoop_length {wd : Width} {F r : Nat} (n : Nat) (hF : F ≤ wd.bits) (hr : r ≠ 0) (hlt : r < 2 ^ F) :
    (fracDigitsLoop wd F n r).length = min n (F - padicValNat 2 r) := by
  induction n generalizing r with
  | zero => simp [fracDigitsLoop_zero]
  | succ n ih =>
    have hv := padicValNat_two_lt hr hlt
    rw [fracDigitsLoop_succ, nextRemainder_eq_mod r hF]
    split_ifs with hzero
    · rw [ten_mul_mod_eq_zero_iff hr] at hzero
      simp only [List.length_singleton]
      omega
    · rw [List.length_cons, ih hzero (Nat.mod_lt _ (Nat.two_pow_pos F)), padicValNat_two_ten_mul_mod hr hzero]
      omega

/-- Settles O27: each digit takes one factor 2 out of the denominator of fp / 2^F. -/
theorem fracDigitCount : Obligations.FracDigitCount := by
  intro c fp F hF hfp
  unfold fracDigits
  split_ifs with hzero
  · obtain ⟨n, hk⟩ := Nat.exists_eq_succ_of_ne_zero (Nat.one_le_iff_ne_zero.mp c.k_legal.1)
    rw [hk, fracDigitsLoop_succ, nextRemainder_eq_mod fp hF, hzero]
    simp
  · exact fracDigitsLoop_length c.k hF hzero hfp

theorem fracDigits_length_pos (c : Config) (fp F : Nat) : 1 ≤ (fracDigits c fp F).length := by
  obtain ⟨n, hk⟩ := Nat.exists_eq_succ_of_ne_zero (Nat.one_le_iff_ne_zero.mp c.k_legal.1)
  rw [fracDigits, hk, fracDigitsLoop_succ]
  simp

theorem fracDigits_length_le (c : Config) (fp F : Nat) : (fracDigits c fp F).length ≤ c.k :=
  fracDigitsLoop_length_le _ _ _ _

/-! ### Truncation -/

/-- One digit off the front of r / 2^F, scaled by the digits that follow. -/
theorem mul_ten_pow_div (r n p : Nat) (hp : 0 < p) :
    r * 10 ^ (n + 1) / p = (10 * r % p) * 10 ^ n / p + 10 ^ n * (10 * r / p) := by
  have hsplit : r * 10 ^ (n + 1) = (10 * r % p) * 10 ^ n + p * (10 ^ n * (10 * r / p)) :=
    calc r * 10 ^ (n + 1) = (10 * r) * 10 ^ n := by ring
      _ = (10 * r % p + p * (10 * r / p)) * 10 ^ n := by rw [Nat.mod_add_div]
      _ = _ := by ring
  rw [hsplit, Nat.add_mul_div_left _ _ hp]

theorem fracDigitsLoop_truncates {wd : Width} {F r : Nat} (n : Nat) (hF : F + 4 ≤ wd.bits) (hr : r < 2 ^ F) :
    Nat.ofDigits 10 (fracDigitsLoop wd F n r).reverse = r * 10 ^ (fracDigitsLoop wd F n r).length / 2 ^ F := by
  induction n generalizing r with
  | zero => simp [fracDigitsLoop_zero, Nat.div_eq_of_lt hr]
  | succ n ih =>
    have hpow := Nat.two_pow_pos F
    rw [fracDigitsLoop_succ, fracDigit_of_headroom hF hr, nextRemainder_eq_mod r (by omega), List.reverse_cons,
      Nat.ofDigits_append, Nat.ofDigits_singleton, List.length_cons, List.length_reverse, mul_ten_pow_div _ _ _ hpow]
    split_ifs with hzero
    · simp [hzero]
    · rw [ih (Nat.mod_lt _ hpow)]

/-- Settles O28: the loop of R167 is long division, one digit at a time. -/
theorem unshiftedDigitsTruncate : Obligations.UnshiftedDigitsTruncate := fun c _ _ hF hfp =>
  fracDigitsLoop_truncates c.k hF hfp

/-! ### The form of FORMAT -/

theorem resolveFn_ip_lt {wd : Width} {raw F : Nat} (signed : Bool) (hraw : raw < 2 ^ wd.bits) (hF : F ≤ wd.bits) :
    (resolveFn wd raw F signed).ip < 2 ^ wd.bits := by
  obtain ⟨-, hfn⟩ | ⟨-, hneg, hfn⟩ := resolveFn_cases signed hraw hF <;> rw [hfn]
  · exact (Nat.div_le_self _ _).trans_lt hraw
  · have := Nat.two_pow_pos (wd.bits - 1)
    exact (Nat.div_le_self _ _).trans_lt (by omega)

theorem resolveFn_fp_lt {wd : Width} {raw F : Nat} (signed : Bool) (hraw : raw < 2 ^ wd.bits) (hF : F ≤ wd.bits) :
    (resolveFn wd raw F signed).fp < 2 ^ wd.bits := by
  obtain ⟨-, hfp, -⟩ := resolveRanges wd raw F signed _ hraw hF rfl
  exact (le_fracMask_iff.mp hfp).trans_le (Nat.pow_le_pow_right (by decide) hF)

/-- Settles O29: FORMAT's own digit lists. -/
theorem formatShape : Obligations.FormatShape := by
  intro c raw F signed hraw hF
  have hip := resolveFn_ip_lt signed hraw hF
  have hip32 := hip.trans_le c.width.two_pow_bits_le
  exact ⟨intDigits (resolveFn c.width raw F signed).ip, fracDigits c (resolveFn c.width raw F signed).fp F, rfl,
    fun d hd => Nat.le_of_lt_succ (intDigits_lt_ten hip32 d hd),
    fun d hd => Nat.le_of_lt_succ (fracDigitsLoop_lt_ten _ _ _ _ d hd), intDigits_length_pos hip32,
    intDigits_length_le hip, fracDigits_length_pos _ _ _, fracDigits_length_le _ _ _, intDigits_head hip32⟩

/-- Settles O30: "0.0", "0.5" and "0.999984". -/
theorem sourceExamplesFormat : Obligations.SourceExamplesFormat := ⟨rfl, rfl, rfl⟩

end Sys2Proof.Machine
end

section
/-! The commands' own meanings (40_command.md R101 to R104), the stops of 93_implementation_defined.md item 16, and the
reset state (10_state.md R20). -/

namespace Sys2Proof.Machine

/-! ### Commands in IDLE -/

/-- Acceptance leaves the registers of R101's pseudocode. -/
theorem State.accept_eq_accepted (s : State) {raw : Word} {r : Nat} (hraw : raw.toNat = r) (f : BitVec 6)
    (signed : Bool) : s.accept raw f signed = Spec.accepted s r f.toNat signed := by
  subst hraw
  simp only [Spec.accepted, BitVec.ofNat_toNat, BitVec.setWidth_eq]
  rfl

theorem takeCommand_accept {s : State} {wd : Width} {raw : Word} {r : Nat} (hidle : s.phase = .idle)
    (hw : s.cfg.width = wd) (hraw : raw.toNat = r) (f : BitVec 6) (signed : Bool) :
    takeCommand wd (fun t => t.accept raw f signed) s = .next (Spec.accepted s r f.toNat signed) :=
  (takeCommand_of_idle hidle hw).trans (congrArg _ (s.accept_eq_accepted hraw f signed))

/-- Settles O9: acceptance, W by W; the register holds the field zero-extended. -/
theorem fmtCommandsAreAccepted : Obligations.FmtCommandsAreAccepted := by
  intro s hidle
  have hextend {n : Nat} (hn : n ≤ 32) (raw : BitVec n) : (raw.setWidth 32).toNat = raw.toNat :=
    BitVec.toNat_setWidth_of_le hn
  exact ⟨fun hw raw f _ => ⟨takeCommand_accept hidle hw (hextend (by decide) raw) f false,
      takeCommand_accept hidle hw (hextend (by decide) raw) f true⟩,
    fun hw raw f _ => ⟨takeCommand_accept hidle hw (hextend (by decide) raw) f false,
      takeCommand_accept hidle hw (hextend (by decide) raw) f true⟩,
    fun hw _ f _ => ⟨takeCommand_accept hidle hw rfl f false, takeCommand_accept hidle hw rfl f true⟩⟩

/-- Settles O10: rejection, W by W. -/
theorem illegalFbitsAreRejected : Obligations.IllegalFbitsAreRejected := fun _ hidle =>
  ⟨fun hw _ _ _ _ => takeCommand_of_idle hidle hw, fun hw _ _ _ _ => takeCommand_of_idle hidle hw,
    fun hw _ _ _ _ => takeCommand_of_idle hidle hw⟩

/-- Settles O12: the three cases of PHASE.IDLE, with the port's fields. -/
theorem idlePhaseResult : Obligations.IdlePhaseResult := by
  intro s hidle
  rw [← State.portFbits_toNat]
  refine ⟨fun hnone => ?_, fun hvalid hlegal => ?_, fun hvalid hillegal => exec_phaseIdle_of_illegal hvalid hillegal⟩
  · rw [exec_phaseIdle_of_no_command hnone, ← hidle]
  · rw [exec_phaseIdle_of_legal hvalid hlegal, State.accept_port, State.portFbits_toNat]

/-- Settles O13: the decoder reads the fields PHASE.IDLE reads. -/
theorem idlePhaseIsDecodedCommand : Obligations.IdlePhaseIsDecodedCommand := fun _ => exec_phaseIdle_of_command

/-! ### Commands asked for elsewhere -/

theorem takeCommand_of_busy {wd : Width} {effect : State → State} {s : State} (hbusy : s.phase ≠ .idle)
    (hw : s.cfg.width = wd) : takeCommand wd effect s = .next s := by
  rw [takeCommand, if_pos hw, if_neg hbusy]

theorem takeCommand_of_other_width {wd : Width} {effect : State → State} {s : State} (hw : s.cfg.width ≠ wd) :
    takeCommand wd effect s = .refused (.otherWidth wd) :=
  if_neg hw

theorem exec_fmtU8 (raw : BitVec 8) (f : BitVec 6) (s : State) :
    exec (.fmtU8 raw f) s = takeCommand .w8 (fun t => t.accept (raw.setWidth 32) f false) s := rfl

theorem exec_fmtU16 (raw : BitVec 16) (f : BitVec 6) (s : State) :
    exec (.fmtU16 raw f) s = takeCommand .w16 (fun t => t.accept (raw.setWidth 32) f false) s := rfl

theorem exec_fmtU32 (raw : BitVec 32) (f : BitVec 6) (s : State) :
    exec (.fmtU32 raw f) s = takeCommand .w32 (fun t => t.accept raw f false) s := rfl

theorem exec_fmtS8 (raw : BitVec 8) (f : BitVec 6) (s : State) :
    exec (.fmtS8 raw f) s = takeCommand .w8 (fun t => t.accept (raw.setWidth 32) f true) s := rfl

theorem exec_fmtS16 (raw : BitVec 16) (f : BitVec 6) (s : State) :
    exec (.fmtS16 raw f) s = takeCommand .w16 (fun t => t.accept (raw.setWidth 32) f true) s := rfl

theorem exec_fmtS32 (raw : BitVec 32) (f : BitVec 6) (s : State) :
    exec (.fmtS32 raw f) s = takeCommand .w32 (fun t => t.accept raw f true) s := rfl

/-- Settles O15: while busy the machine turns every command of its own W away. -/
theorem busyCommandIsTurnedAway : Obligations.BusyCommandIsTurnedAway := by
  intro s hbusy
  refine ⟨fun hw raw f _ => ?_, fun hw raw f _ => ?_, fun hw raw f _ => ?_⟩
  · exact ⟨(exec_fmtU8 raw f s).trans (takeCommand_of_busy hbusy hw),
      (exec_fmtS8 raw f s).trans (takeCommand_of_busy hbusy hw), takeCommand_of_busy hbusy hw⟩
  · exact ⟨(exec_fmtU16 raw f s).trans (takeCommand_of_busy hbusy hw),
      (exec_fmtS16 raw f s).trans (takeCommand_of_busy hbusy hw), takeCommand_of_busy hbusy hw⟩
  · exact ⟨(exec_fmtU32 raw f s).trans (takeCommand_of_busy hbusy hw),
      (exec_fmtS32 raw f s).trans (takeCommand_of_busy hbusy hw), takeCommand_of_busy hbusy hw⟩

/-- Settles O16: W is compared before anything else. -/
theorem otherWidthCommandIsRefused : Obligations.OtherWidthCommandIsRefused := by
  intro s
  refine ⟨fun hw raw f _ => ?_, fun hw raw f _ => ?_, fun hw raw f _ => ?_⟩
  · exact ⟨(exec_fmtU8 raw f s).trans (takeCommand_of_other_width hw),
      (exec_fmtS8 raw f s).trans (takeCommand_of_other_width hw), takeCommand_of_other_width hw⟩
  · exact ⟨(exec_fmtU16 raw f s).trans (takeCommand_of_other_width hw),
      (exec_fmtS16 raw f s).trans (takeCommand_of_other_width hw), takeCommand_of_other_width hw⟩
  · exact ⟨(exec_fmtU32 raw f s).trans (takeCommand_of_other_width hw),
      (exec_fmtS32 raw f s).trans (takeCommand_of_other_width hw), takeCommand_of_other_width hw⟩

/-! ### Indices outside the buffers -/

theorem emitStep_of_error {byte : Except Fault Byte} {e : Fault} {advance : State → State} {s : State}
    (h : byte = .error e) : emitStep byte advance s = .fault e := by
  rw [h]
  rfl

/-- A byte taken at OCOUNT = 255 has no count (10_state.md R28). -/
theorem emitStep_of_full_count {byte : Except Fault Byte} {b : Byte} {advance : State → State} {s : State}
    (hbyte : byte = .ok b) (herr : s.input.snkErr = false) (hready : s.input.snkReady = true)
    (hfull : s.ocount.toNat = 255) : emitStep byte advance s = .fault .ocountRange := by
  have hcount : s.countByte = .error .ocountRange := if_neg (by omega)
  simp [emitStep, hbyte, herr, hready, hcount]

theorem exec_phaseIntdig_of_no_room {s : State} (h : s.istart.toNat = 0 ∨ s.cfg.ib < s.istart.toNat) :
    exec .phaseIntdig s = .fault .ibufIndex := by
  have hpush (b : Byte) : s.pushIbuf b = .error .ibufIndex := if_neg (by omega)
  simp only [exec, execPhaseIntdig, hpush]

/-- The last digit of a negative number at index 0 leaves no byte for the sign. -/
theorem exec_phaseIntdig_of_no_sign_room {s : State} (hone : s.istart.toNat = 1) (hlast : s.irem.toNat < 10)
    (hpol : s.pol = true) : exec .phaseIntdig s = .fault .ibufIndex := by
  have hib : 0 < s.cfg.ib := Nat.succ_pos _
  have hdigit : s.pushIbuf (digitByte (s.irem.toNat % 10)) =
      .ok { s with
        ibuf := s.ibuf.put (s.istart.toNat - 1) (digitByte (s.irem.toNat % 10)), istart := s.istart - 1#4 } :=
    if_pos ⟨by omega, by omega⟩
  have hstart : s.withIntDigit.istart.toNat = 0 := by
    rw [State.withIntDigit_istart_toNat (by omega), hone]
  have hsign : s.withIntDigit.pushIbuf minusByte = .error .ibufIndex := if_neg (by omega)
  calc exec .phaseIntdig s
    _ = finishIntdig s.withIntDigit := by
      simp only [exec, execPhaseIntdig, hdigit, if_pos (Nat.div_eq_of_lt hlast)]
      rfl
    _ = .fault .ibufIndex := by
      rw [finishIntdig, State.withIntDigit_pol, if_pos hpol, hsign]

theorem exec_phaseFracdig_of_no_room {s : State} (h : s.cfg.k ≤ s.fcnt.toNat) :
    exec .phaseFracdig s = .fault .fbufIndex := by
  have hpush (b : Byte) : s.pushFbuf b = .error .fbufIndex := if_neg (by omega)
  simp only [exec, execPhaseFracdig, hpush]

/-- Settles O35: the reads and writes outside a buffer, then the full count. -/
theorem indexOutsideBufferFaults : Obligations.IndexOutsideBufferFaults := by
  intro s
  refine ⟨fun h => ?ibuf, fun h => ?fbuf, exec_phaseIntdig_of_no_room, exec_phaseIntdig_of_no_sign_room,
    exec_phaseFracdig_of_no_room, fun hfull herr hready => ⟨?point, fun hcursor => ?int, fun hcursor => ?frac⟩⟩
  case ibuf =>
    have hread : s.readIbuf s.ecur.toNat = .error .ibufIndex := if_neg h.not_gt
    exact ⟨emitStep_of_error hread, emitStep_of_error hread⟩
  case fbuf =>
    have hread : s.readFbuf s.ecur.toNat = .error .fbufIndex := if_neg h.not_gt
    exact emitStep_of_error hread
  case point => exact emitStep_of_full_count (byte := .ok pointByte) rfl herr hready hfull
  case int =>
    have hread := State.readIbuf_eq_ok.mpr ⟨hcursor, rfl⟩
    exact ⟨emitStep_of_full_count hread herr hready hfull, emitStep_of_full_count hread herr hready hfull⟩
  case frac => exact emitStep_of_full_count (State.readFbuf_eq_ok.mpr ⟨hcursor, rfl⟩) herr hready hfull

/-! ### The reset state -/

/-- Settles O42: register by register. -/
theorem resetStateRegisters : Obligations.ResetStateRegisters :=
  ⟨rfl, rfl, rfl, rfl, rfl, rfl, rfl, rfl, rfl, rfl, rfl, rfl, rfl, rfl, rfl, fun _ => rfl, fun _ => rfl, rfl, rfl, rfl,
    rfl, rfl⟩

/-- Settles O51: every register 0, both buffers empty. -/
theorem resetSatisfiesInv : Obligations.ResetSatisfiesInv := fun _ _ =>
  ⟨⟨Nat.two_pow_pos _, Nat.two_pow_pos _, Nat.two_pow_pos _, Nat.two_pow_pos _, Nat.two_pow_pos _⟩,
    ⟨rfl, rfl, rfl, rfl⟩, Nat.zero_le _, fun h => Bool.noConfusion h, fun _ => rfl⟩

/-! ### The status word -/

/-- The number R79's fields add up to. -/
def State.statusSum (s : State) : Nat :=
  s.busy.toNat + 2 * s.done.toNat + 4 * s.result.code.toNat + 256 * s.ocount.toNat + 65536 * s.errcode.toNat

/-- With ERRCODE in its width, no bit of the sum is lost. -/
theorem State.status_toNat {s : State} (h : s.errcode.toNat < 2 ^ s.cfg.ew) : s.status.toNat = s.statusSum := by
  have hbusy := s.busy.toNat_le
  have hdone := s.done.toNat_le
  have hresult := s.result.code.isLt
  have hcount := s.ocount.isLt
  refine (BitVec.toNat_ofNat _ _).trans (Nat.mod_eq_of_lt ?_)
  rw [Nat.pow_add]
  omega

/-- A field of the status word, below ERRCODE's. -/
theorem State.status_extract {s : State} (h : s.errcode.toNat < 2 ^ s.cfg.ew) (lo n : Nat) (field : BitVec n)
    (hfield : s.statusSum / 2 ^ lo % 2 ^ n = field.toNat) : s.status.extractLsb' lo n = field :=
  BitVec.eq_of_toNat_eq (by
    rw [BitVec.extractLsb'_toNat, State.status_toNat h, Nat.shiftRight_eq_div_pow, hfield])

theorem State.status_bit {s : State} (h : s.errcode.toNat < 2 ^ s.cfg.ew) (k : Nat) (field : Bool)
    (hfield : s.statusSum / 2 ^ k % 2 = field.toNat) : s.status.getLsbD k = field := by
  rw [BitVec.getLsbD, State.status_toNat h, Nat.testBit_eq_decide_div_mod_eq, hfield]
  cases field <;> rfl

/-- Settles O43: each field is the sum divided and reduced; the parts below it are less than its weight. -/
theorem statusWordFields : Obligations.StatusWordFields := by
  refine ⟨⟨rfl, rfl, rfl, rfl⟩, fun s h => ?_⟩
  have hbusy := s.busy.toNat_le
  have hdone := s.done.toNat_le
  have hresult := s.result.code.isLt
  have hcount := s.ocount.isLt
  refine ⟨State.status_bit h 0 s.busy ?_, State.status_bit h 1 _ ?_, State.status_extract h 2 2 _ ?_,
    State.status_extract h 4 4 _ ?_, State.status_extract h 8 8 _ ?_, ?_⟩
  case refine_6 =>
    rw [State.status_toNat h, Nat.shiftRight_eq_div_pow]
    simp only [State.statusSum]
    omega
  all_goals
    simp only [State.statusSum, BitVec.toNat_ofNat]
    omega

end Sys2Proof.Machine
end

section
/-! What each phase's step leaves unchanged, and what follows for the buffers, OCOUNT, the segment markers and stalls
(20_memory.md R51; 10_state.md R28; 44_emission.md R181 to R187; 70_reset_and_hazards.md R235, R236). -/

namespace Sys2Proof.Machine

/-! ### The four emission phases as one rule -/

/-- The Advance of the phase (R182 to R185). -/
def Phase.advance : Phase → State → State
  | .emitSign => advanceEmitSign
  | .emitInt => advanceEmitInt
  | .emitPoint => advanceEmitPoint
  | .emitFrac => advanceEmitFrac
  | _ => id

/-- In an emission phase the step is the handshake over the byte on offer, with the phase's Advance. -/
theorem exec_emission {s : State} (hvalid : s.outValid = true) :
    exec s.phase.instr s = emitStep s.outByte s.phase.advance s := by
  unfold State.outByte
  obtain hp | hp | hp | hp := State.outValid_iff.mp hvalid <;> rw [hp] <;> rfl

/-- `s` after the sink has taken the byte on offer. -/
def State.taken (s : State) : State := s.phase.advance { s with ocount := s.ocount + 1#8 }

/-- An emission step needs a byte to offer; then the sink fails, takes the byte, or stalls. -/
theorem exec_emission_eq_next {s t : State} (hvalid : s.outValid = true) :
    exec s.phase.instr s = .next t ↔
      (∃ b, s.outByte = .ok b) ∧
      ((s.input.snkErr = true ∧ t = s.complete .errSink s.sinkCode) ∨
       (s.input.snkErr = false ∧ s.input.snkReady = true ∧ s.ocount.toNat < 255 ∧ t = s.taken) ∨
       (s.input.snkErr = false ∧ s.input.snkReady = false ∧ t = s)) := by
  rw [exec_emission hvalid]
  exact emitStep_eq_next

/-! ### Frames -/

theorem exec_phaseIntdig_frame {s t : State} (h : exec .phaseIntdig s = .next t) :
    t = { s with irem := t.irem, ibuf := t.ibuf, istart := t.istart, phase := t.phase } := by
  obtain ⟨-, -, ⟨-, hfin⟩ | ⟨-, rfl⟩⟩ := exec_intdig_eq_next.mp h
  · obtain ⟨-, rfl⟩ | ⟨-, -, -, rfl⟩ := finishIntdig_eq_next.mp hfin <;> rfl
  · rfl

theorem exec_phaseFracdig_frame {s t : State} (h : exec .phaseFracdig s = .next t) :
    t = { s with fbuf := t.fbuf, fcnt := t.fcnt, frem := t.frem, ecur := t.ecur, phase := t.phase } := by
  obtain ⟨-, ⟨-, rfl⟩ | ⟨-, rfl⟩⟩ := exec_fracdig_eq_next.mp h <;> rfl

theorem Phase.advance_frame (p : Phase) (s : State) :
    p.advance s = { s with
      ecur := (p.advance s).ecur, result := (p.advance s).result, errcode := (p.advance s).errcode
      done := (p.advance s).done, phase := (p.advance s).phase } := by
  cases p <;> simp only [Phase.advance]
  case emitInt => unfold advanceEmitInt; split <;> rfl
  case emitFrac => unfold advanceEmitFrac; split <;> rfl
  all_goals rfl

theorem State.taken_frame (s : State) :
    s.taken = { s with
      ecur := s.taken.ecur, ocount := s.ocount + 1#8, result := s.taken.result, errcode := s.taken.errcode
      done := s.taken.done, phase := s.taken.phase } :=
  s.phase.advance_frame { s with ocount := s.ocount + 1#8 }

theorem exec_emission_frame {s t : State} (hvalid : s.outValid = true) (h : exec s.phase.instr s = .next t) :
    t = { s with
      ecur := t.ecur, ocount := t.ocount, result := t.result, errcode := t.errcode, done := t.done
      phase := t.phase } := by
  obtain ⟨-, ⟨-, rfl⟩ | ⟨-, -, -, rfl⟩ | ⟨-, -, rfl⟩⟩ := (exec_emission_eq_next hvalid).mp h
  · rfl
  · rw [State.taken_frame]
  · rfl

/-! ### The parameters -/

/-- The rule of a phase changes neither the parameters nor the samples (log entries 1 and 2). -/
theorem exec_phase_rule_cfg_script {s t : State} (h : exec s.phase.instr s = .next t) :
    t.cfg = s.cfg ∧ t.script = s.script := by
  have hemit (hvalid : s.outValid = true) : t.cfg = s.cfg ∧ t.script = s.script := by
    rw [exec_emission_frame hvalid h]
    exact ⟨rfl, rfl⟩
  cases hp : s.phase <;> rw [hp] at h
  case idle => obtain ⟨-, -, rfl⟩ | ⟨-, -, rfl⟩ | ⟨-, rfl⟩ := exec_idle_eq_next.mp h <;> exact ⟨rfl, rfl⟩
  case resolve => cases h; exact ⟨rfl, rfl⟩
  case intdig => rw [exec_phaseIntdig_frame h]; exact ⟨rfl, rfl⟩
  case fracdig => rw [exec_phaseFracdig_frame h]; exact ⟨rfl, rfl⟩
  all_goals exact hemit (State.outValid_iff.mpr (by simp [hp]))

/-- Settles O50: reset and every rule keep the parameters, and the step takes the sample. -/
theorem stepKeepsParameters : Obligations.StepKeepsParameters := by
  intro s t hstep
  cases hrst : s.input.rst with
  | true =>
    rw [step_of_rst hrst] at hstep
    cases hstep
    exact ⟨rfl, rfl⟩
  | false =>
    obtain ⟨u, hexec, rfl⟩ := exec_phase_rule_of_step hstep hrst
    have hkeep := exec_phase_rule_cfg_script (s := s.clearDone) hexec
    exact ⟨hkeep.1, congrArg List.tail hkeep.2⟩

/-! ### The buffers -/

theorem exec_phase_rule_ibuf {s t : State} (h : exec s.phase.instr s = .next t) (hint : s.phase ≠ .intdig)
    (hno : ¬(s.phase = .idle ∧ s.input.cmdValid = true ∧ s.portFbits.toNat ≤ s.cfg.w)) : t.ibuf = s.ibuf := by
  have hemit (hvalid : s.outValid = true) : t.ibuf = s.ibuf := by rw [exec_emission_frame hvalid h]
  cases hp : s.phase <;> rw [hp] at h
  case idle =>
    obtain ⟨hvalid, hlegal, -⟩ | ⟨-, -, rfl⟩ | ⟨-, rfl⟩ := exec_idle_eq_next.mp h
    exacts [absurd ⟨hp, hvalid, hlegal⟩ hno, rfl, rfl]
  case resolve => cases h; rfl
  case intdig => exact absurd hp hint
  case fracdig => rw [exec_phaseFracdig_frame h]
  all_goals exact hemit (State.outValid_iff.mpr (by simp [hp]))

theorem exec_phase_rule_fbuf {s t : State} (h : exec s.phase.instr s = .next t) (hfrac : s.phase ≠ .fracdig)
    (hno : ¬(s.phase = .idle ∧ s.input.cmdValid = true ∧ s.portFbits.toNat ≤ s.cfg.w)) : t.fbuf = s.fbuf := by
  have hemit (hvalid : s.outValid = true) : t.fbuf = s.fbuf := by rw [exec_emission_frame hvalid h]
  cases hp : s.phase <;> rw [hp] at h
  case idle =>
    obtain ⟨hvalid, hlegal, -⟩ | ⟨-, -, rfl⟩ | ⟨-, rfl⟩ := exec_idle_eq_next.mp h
    exacts [absurd ⟨hp, hvalid, hlegal⟩ hno, rfl, rfl]
  case resolve => cases h; rfl
  case intdig => rw [exec_phaseIntdig_frame h]
  case fracdig => exact absurd hp hfrac
  all_goals exact hemit (State.outValid_iff.mpr (by simp [hp]))

/-- INTDIG writes the byte below the used region, and the one below that when it ends a negative number's digits. -/
theorem exec_phaseIntdig_ibuf_get {s t : State} (h : exec .phaseIntdig s = .next t) {a : Nat}
    (ha : a + 1 ≠ s.istart.toNat) (hsign : ¬(s.pol = true ∧ s.irem.toNat < 10 ∧ a + 2 = s.istart.toNat)) :
    t.ibuf.get a = s.ibuf.get a := by
  obtain ⟨hpos, -, ⟨hlast, hfin⟩ | ⟨-, rfl⟩⟩ := exec_intdig_eq_next.mp h
  · have hdigit : s.withIntDigit.ibuf.get a = s.ibuf.get a := s.withIntDigit_ibuf_get_of_ne (by omega)
    obtain ⟨-, rfl⟩ | ⟨hpol, hpos', -, rfl⟩ := finishIntdig_eq_next.mp hfin
    · exact hdigit
    · have hstart := State.withIntDigit_istart_toNat hpos
      rw [State.withSign_ibuf_get_of_ne _ fun heq => hsign ⟨hpol, by omega, by omega⟩, hdigit]
  · exact s.withIntDigit_ibuf_get_of_ne (by omega)

theorem exec_phaseFracdig_fbuf_get {s t : State} (h : exec .phaseFracdig s = .next t) {a : Nat}
    (ha : a ≠ s.fcnt.toNat) : t.fbuf.get a = s.fbuf.get a := by
  obtain ⟨-, ⟨-, rfl⟩ | ⟨-, rfl⟩⟩ := exec_fracdig_eq_next.mp h <;> exact s.withFracDigit_fbuf_get_of_ne ha

/-- Settles O46: acceptance clears both buffers, and otherwise each of them is written by one phase. -/
theorem bufferWritesAreTheRules : Obligations.BufferWritesAreTheRules := by
  intro s t hstep hrst
  obtain ⟨u, hexec, rfl⟩ := exec_phase_rule_of_step hstep hrst
  rw [← State.portFbits_toNat]
  refine ⟨fun ⟨hp, hvalid, hlegal⟩ a => ?accept,
    fun hno => ⟨fun hint => exec_phase_rule_ibuf (s := s.clearDone) (t := u) hexec hint hno,
      fun hfrac => exec_phase_rule_fbuf (s := s.clearDone) (t := u) hexec hfrac hno⟩,
    fun hp a ha hsign => ?intdig, fun hp a ha => ?fracdig⟩ <;> rw [hp] at hexec
  case accept =>
    have haccept := exec_phaseIdle_of_legal (s := s.clearDone) hvalid hlegal
    obtain rfl := Host.Outcome.next.inj (haccept.symm.trans hexec)
    exact ⟨rfl, rfl⟩
  case intdig => exact exec_phaseIntdig_ibuf_get (s := s.clearDone) hexec ha hsign
  case fracdig => exact exec_phaseFracdig_fbuf_get (s := s.clearDone) hexec ha

/-! ### The bytes taken and OCOUNT -/

theorem State.transferred_of_quiet {s : State} (h : s.outValid = false) : s.transferred = [] := by
  simp [State.transferred, h]

theorem State.transferred_of_failure {s : State} (h : s.input.snkErr = true) : s.transferred = [] := by
  simp [State.transferred, h]

theorem State.transferred_of_stall {s : State} (h : s.input.snkReady = false) : s.transferred = [] := by
  simp [State.transferred, h]

theorem State.transferred_of_taken {s : State} {b : Byte} (hvalid : s.outValid = true) (hrst : s.input.rst = false)
    (herr : s.input.snkErr = false) (hready : s.input.snkReady = true) (hbyte : s.outByte = .ok b) :
    s.transferred = [b] := by
  simp [State.transferred, hvalid, hrst, herr, hready, hbyte]

/-- A byte is transferred only when the sink takes it (20_memory.md R55). -/
theorem State.of_transferred {s : State} (h : s.transferred ≠ []) :
    s.outValid = true ∧ s.input.rst = false ∧ s.input.snkErr = false ∧ s.input.snkReady = true := by
  by_contra hno
  exact h (if_neg hno)

/-- The rule of a phase counts the bytes the sink takes, acceptance and rejection aside. -/
theorem exec_phase_rule_ocount {s t : State} (hrst : s.input.rst = false)
    (hno : ¬(s.phase = .idle ∧ s.input.cmdValid = true)) (h : exec s.phase.instr s = .next t) :
    t.ocount.toNat = s.ocount.toNat + s.transferred.length := by
  cases hvalid : s.outValid with
  | true =>
    obtain ⟨⟨b, hbyte⟩, ⟨herr, rfl⟩ | ⟨herr, hready, hcount, rfl⟩ | ⟨-, hready, rfl⟩⟩ :=
      (exec_emission_eq_next hvalid).mp h
    · rw [State.transferred_of_failure herr]
      rfl
    · rw [State.transferred_of_taken hvalid hrst herr hready hbyte, State.taken_frame]
      exact State.ocount_add_toNat hcount
    · rw [State.transferred_of_stall hready]
      rfl
  | false =>
    rw [State.transferred_of_quiet hvalid]
    refine congrArg BitVec.toNat (show t.ocount = s.ocount from ?_)
    have hquiet := mt State.outValid_iff.mpr (Bool.eq_false_iff.mp hvalid)
    cases hp : s.phase <;> rw [hp] at h
    case idle =>
      obtain ⟨hcmd, -⟩ | ⟨hcmd, -⟩ | ⟨-, rfl⟩ := exec_idle_eq_next.mp h
      exacts [absurd ⟨hp, hcmd⟩ hno, absurd ⟨hp, hcmd⟩ hno, rfl]
    case resolve => cases h; rfl
    case intdig => rw [exec_phaseIntdig_frame h]
    case fracdig => rw [exec_phaseFracdig_frame h]
    all_goals simp [hp] at hquiet

/-- In a safe state OCOUNT is at most what the phase has sent of the longest string (R28). -/
theorem State.Inv.ocount_le {s : State} (h : s.Inv) : s.ocount.toNat ≤ s.cfg.ib + 1 + s.cfg.k := by
  obtain ⟨-, -, hphase⟩ := h
  unfold State.phaseOk at hphase
  split at hphase
  case h_1 => exact hphase.1
  case h_2 =>
    obtain ⟨-, -, -, hcount, -⟩ := hphase
    simp [hcount]
  case h_3 =>
    obtain ⟨-, -, -, -, -, hcount, -⟩ := hphase
    simp [hcount]
  case h_4 =>
    obtain ⟨-, -, -, -, -, -, hcount⟩ := hphase
    simp [hcount]
  case h_5 =>
    obtain ⟨-, -, -, -, hcount⟩ := hphase
    simp [hcount]
  case h_6 => omega
  case h_7 => omega
  case h_8 =>
    obtain ⟨-, ⟨-, ⟨hfcnt, -⟩, -⟩, hcursor, hcount⟩ := hphase
    omega

/-- Settles O48: the step counts what is transferred, and the longest string has IB + 1 + K bytes. -/
theorem ocountCountsAcceptedBytes : Obligations.OcountCountsAcceptedBytes := by
  refine ⟨fun s t hstep hrst => ?_, fun s hinv => ?_⟩
  · obtain ⟨u, hexec, rfl⟩ := exec_phase_rule_of_step hstep hrst
    refine ⟨fun hp hcmd => ?_, fun hno => exec_phase_rule_ocount (s := s.clearDone) (t := u) hrst hno hexec⟩
    rw [hp] at hexec
    obtain ⟨-, -, rfl⟩ | ⟨-, -, rfl⟩ | ⟨hnone, -⟩ := exec_idle_eq_next.mp hexec
    exacts [rfl, rfl, absurd hcmd (by simp_all)]
  · have hle := hinv.ocount_le
    have hdigits := s.cfg.width.digits_le
    have hk := s.cfg.k_legal.2
    rw [Config.ib_eq] at hle
    omega

/-! ### A byte taken, phase by phase -/

theorem State.outByte_eq_ok_of_ibuf {s : State} {b : Byte} (hp : s.phase = .emitSign ∨ s.phase = .emitInt) :
    s.outByte = .ok b ↔ s.ecur.toNat < s.cfg.ib ∧ b = s.ibuf.get s.ecur.toNat := by
  rw [← State.readIbuf_eq_ok, State.outByte]
  obtain hp | hp := hp <;> rw [hp]

theorem State.outByte_eq_ok_of_fbuf {s : State} {b : Byte} (hp : s.phase = .emitFrac) :
    s.outByte = .ok b ↔ s.ecur.toNat < s.cfg.k ∧ b = s.fbuf.get s.ecur.toNat := by
  rw [← State.readFbuf_eq_ok, State.outByte, hp]

theorem State.taken_eq (s : State) {p : Phase} (hp : s.phase = p) :
    s.taken = p.advance { s with ocount := s.ocount + 1#8 } :=
  congrFun (congrArg Phase.advance hp) _

theorem State.taken_of_emitSign {s : State} (hp : s.phase = .emitSign) :
    s.taken = { s with ocount := s.ocount + 1#8, ecur := s.ecur + 1#7, phase := .emitInt } :=
  s.taken_eq hp

theorem State.taken_of_emitInt {s : State} (hp : s.phase = .emitInt) (hcursor : s.ecur.toNat < s.cfg.ib) :
    s.taken = { s with
      ocount := s.ocount + 1#8, ecur := s.ecur + 1#7
      phase := if s.ecur.toNat + 1 = s.cfg.ib then .emitPoint else .emitInt } := by
  calc s.taken
    _ = advanceEmitInt { s with ocount := s.ocount + 1#8 } := s.taken_eq hp
    _ = _ := by rw [advanceEmitInt_eq (s := { s with ocount := s.ocount + 1#8 }) hcursor, ← hp]

theorem State.taken_of_emitPoint {s : State} (hp : s.phase = .emitPoint) :
    s.taken = { s with ocount := s.ocount + 1#8, ecur := 0#7, phase := .emitFrac } :=
  s.taken_eq hp

theorem State.taken_of_emitFrac_last {s : State} (hp : s.phase = .emitFrac) (hcursor : s.ecur.toNat < s.cfg.k)
    (hlast : s.ecur.toNat + 1 = s.fcnt.toNat) :
    s.taken = { s with
      ocount := s.ocount + 1#8, ecur := s.ecur + 1#7
      result := .ok, errcode := 0#32, done := true, phase := .idle } := by
  calc s.taken
    _ = advanceEmitFrac { s with ocount := s.ocount + 1#8 } := s.taken_eq hp
    _ = _ := by rw [advanceEmitFrac_eq (s := { s with ocount := s.ocount + 1#8 }) hcursor, if_pos hlast]

theorem State.taken_of_emitFrac {s : State} (hp : s.phase = .emitFrac) (hcursor : s.ecur.toNat < s.cfg.k)
    (hmore : s.ecur.toNat + 1 ≠ s.fcnt.toNat) :
    s.taken = { s with ocount := s.ocount + 1#8, ecur := s.ecur + 1#7 } := by
  calc s.taken
    _ = advanceEmitFrac { s with ocount := s.ocount + 1#8 } := s.taken_eq hp
    _ = _ := by rw [advanceEmitFrac_eq (s := { s with ocount := s.ocount + 1#8 }) hcursor, if_neg hmore]

/-! ### The segment markers -/

/-- out_seg_last and out_end test what the Advance tests (R186). -/
theorem State.markers_of_taken {s : State} {b : Byte} (hvalid : s.outValid = true) (hbyte : s.outByte = .ok b) :
    (s.outSegLast = true ↔ s.taken.phase ≠ s.phase) ∧ (s.outEnd = true ↔ s.taken.phase = .idle) := by
  rw [State.outSegLast_iff, State.outEnd_iff]
  obtain hp | hp | hp | hp := State.outValid_iff.mp hvalid
  case inl => simp [State.taken_of_emitSign hp, hp]
  case inr.inl =>
    obtain ⟨hcursor, -⟩ := (State.outByte_eq_ok_of_ibuf (.inr hp)).mp hbyte
    rw [State.taken_of_emitInt hp hcursor]
    by_cases hlast : s.ecur.toNat + 1 = s.cfg.ib <;> simp [hp, hlast]
  case inr.inr.inl => simp [State.taken_of_emitPoint hp, hp]
  case inr.inr.inr =>
    obtain ⟨hcursor, -⟩ := (State.outByte_eq_ok_of_fbuf hp).mp hbyte
    by_cases hlast : s.ecur.toNat + 1 = s.fcnt.toNat
    · simp [State.taken_of_emitFrac_last hp hcursor hlast, hp, hlast]
    · simp [State.taken_of_emitFrac hp hcursor hlast, hp, hlast]

/-- Settles O38: a transferred byte is a byte taken. -/
theorem segmentMarkersMarkTheEnds : Obligations.SegmentMarkersMarkTheEnds := by
  intro s t hstep htransferred
  obtain ⟨hvalid, hrst, herr, hready⟩ := State.of_transferred htransferred
  obtain ⟨u, hexec, rfl⟩ := exec_phase_rule_of_step hstep hrst
  obtain ⟨⟨b, hbyte⟩, ⟨hfail, -⟩ | ⟨-, -, -, rfl⟩ | ⟨-, hstall, -⟩⟩ :=
    (exec_emission_eq_next (s := s.clearDone) hvalid).mp hexec
  · exact Bool.noConfusion (herr.symm.trans hfail)
  · exact State.markers_of_taken (s := s.clearDone) hvalid hbyte
  · exact Bool.noConfusion (hready.symm.trans hstall)

/-! ### Stalls -/

/-- A stall (R236): with a byte on offer and DONE already 0, the step changes nothing but the sample. -/
theorem step_of_stall {s : State} {b : Byte} (hvalid : s.outValid = true) (hbyte : s.outByte = .ok b)
    (hdone : s.done = false) (hrst : s.input.rst = false) (herr : s.input.snkErr = false)
    (hready : s.input.snkReady = false) : step s = .next s.nextSample := by
  have hclear : s.clearDone = s := by rw [State.clearDone, ← hdone]
  rw [step_eq_phase_rule hrst, hclear,
    (exec_emission_eq_next hvalid).mpr ⟨⟨b, hbyte⟩, .inr (.inr ⟨herr, hready, rfl⟩)⟩]
  rfl

/-- Any number of stalls consumes their samples and changes nothing else. -/
theorem run_of_stalls {s : State} {stalls rest : List Inputs} {b : Byte} (hvalid : s.outValid = true)
    (hbyte : s.outByte = .ok b) (hdone : s.done = false) (hscript : s.script = stalls ++ rest)
    (hstalls : ∀ i ∈ stalls, i.rst = false ∧ i.snkErr = false ∧ i.snkReady = false) :
    run stalls.length s = .next { s with script := rest } := by
  induction stalls generalizing s with
  | nil => rw [← show s.script = rest from hscript]; rfl
  | cons i stalls ih =>
    have hinput : s.input = i := by rw [State.input, hscript, List.cons_append]
    obtain ⟨⟨hrst, herr, hready⟩, hlater⟩ := List.forall_mem_cons.mp hstalls
    rw [← hinput] at hrst herr hready
    rw [List.length_cons, run_succ_of_step (step_of_stall hvalid hbyte hdone hrst herr hready)]
    exact ih (s := s.nextSample) hvalid hbyte hdone (congrArg List.tail hscript) hlater

/-- Settles O39: the ports are functions of the registers, which the stalls leave alone. -/
theorem stallHoldsEverything : Obligations.StallHoldsEverything := by
  rintro n s stalls rest b hvalid hbyte hdone hscript rfl hstalls
  exact ⟨run_of_stalls hvalid hbyte hdone hscript hstalls, hvalid, hbyte, rfl, rfl, rfl⟩

/-! ### The next command -/

/-- Settles O59: acceptance writes every register it does not find the same. -/
theorem commandForgetsHistory : Obligations.CommandForgetsHistory := by
  intro s t hcfg hscript hs ht hrst hvalid hlegal
  have hinput : s.input = t.input := by rw [State.input, State.input, hscript]
  have hstep : step s = step t := by
    rw [(idleStepTakesOfferedCommand s hs hrst).2.1 hvalid hlegal]
    rw [hinput] at hrst hvalid hlegal
    rw [hcfg] at hlegal
    rw [(idleStepTakesOfferedCommand t ht hrst).2.1 hvalid hlegal]
    simp only [Spec.accepted, hinput, hcfg, hscript]
  have hquiet {u : State} (hu : u.phase = .idle) : u.transferred = [] :=
    State.transferred_of_quiet (by simp [State.outValid, hu])
  refine ⟨hstep, fun n => ⟨?_, ?_⟩⟩
  · rw [run, run, hstep]
  · rw [sends, sends, hstep, hquiet hs, hquiet ht]

end Sys2Proof.Machine
end

section
/-! The invariant (10_state.md R37): what it says phase by phase, that every rule keeps it, that a step from a safe
state goes on, and what it says of the byte on offer (30_encoding.md R82). -/

namespace Sys2Proof.Machine

/-! ### The invariant, phase by phase -/

section
variable {s : State}

theorem State.inv_iff_of_idle (hp : s.phase = .idle) :
    s.Inv ↔ s.widthsFit ∧ s.buffersFit ∧ s.ocount.toNat ≤ s.cfg.ib + 1 + s.cfg.k ∧
      (s.done = true → s.result ≠ .none) ∧ (s.result ≠ .errSink → s.errcode = 0#32) := by
  simp only [State.Inv, State.phaseOk, hp]

theorem State.inv_iff_of_resolve (hp : s.phase = .resolve) :
    s.Inv ↔ s.widthsFit ∧ s.buffersFit ∧ s.flightOk ∧ s.resolveOk := by
  simp only [State.Inv, State.phaseOk, hp]

theorem State.inv_iff_of_intdig (hp : s.phase = .intdig) :
    s.Inv ↔ s.widthsFit ∧ s.buffersFit ∧ s.flightOk ∧ s.intdigOk := by
  simp only [State.Inv, State.phaseOk, hp]

theorem State.inv_iff_of_fracdig (hp : s.phase = .fracdig) :
    s.Inv ↔ s.widthsFit ∧ s.buffersFit ∧ s.flightOk ∧ s.fracdigOk := by
  simp only [State.Inv, State.phaseOk, hp]

theorem State.inv_iff_of_emitSign (hp : s.phase = .emitSign) :
    s.Inv ↔ s.widthsFit ∧ s.buffersFit ∧ s.flightOk ∧ s.emitOk ∧ s.pol = true ∧ s.ecur.toNat = s.istart.toNat ∧
      s.ocount = 0#8 := by
  simp only [State.Inv, State.phaseOk, hp]

theorem State.inv_iff_of_emitInt (hp : s.phase = .emitInt) :
    s.Inv ↔ s.widthsFit ∧ s.buffersFit ∧ s.flightOk ∧ s.emitOk ∧ s.istart.toNat + s.pol.toNat ≤ s.ecur.toNat ∧
      s.ecur.toNat < s.cfg.ib ∧ s.ocount.toNat = s.ecur.toNat - s.istart.toNat := by
  simp only [State.Inv, State.phaseOk, hp]

theorem State.inv_iff_of_emitPoint (hp : s.phase = .emitPoint) :
    s.Inv ↔ s.widthsFit ∧ s.buffersFit ∧ s.flightOk ∧ s.emitOk ∧ s.ocount.toNat = s.cfg.ib - s.istart.toNat := by
  simp only [State.Inv, State.phaseOk, hp]

theorem State.inv_iff_of_emitFrac (hp : s.phase = .emitFrac) :
    s.Inv ↔ s.widthsFit ∧ s.buffersFit ∧ s.flightOk ∧ s.emitOk ∧ s.ecur.toNat < s.fcnt.toNat ∧
      s.ocount.toNat = s.cfg.ib - s.istart.toNat + 1 + s.ecur.toNat := by
  simp only [State.Inv, State.phaseOk, hp]

/-- What holds in every phase of a command in flight. -/
theorem State.Inv.flightOk (h : s.Inv) (hbusy : s.phase ≠ .idle) : s.flightOk := by
  obtain ⟨-, -, hphase⟩ := h
  unfold State.phaseOk at hphase
  split at hphase
  case h_1 hidle => exact absurd hidle hbusy
  all_goals exact hphase.1

/-- DONE does not show while a command is in flight (R30). -/
theorem State.Inv.done_eq_false (h : s.Inv) (hbusy : s.phase ≠ .idle) : s.done = false := by
  obtain ⟨-, -, -, hdone⟩ := h.flightOk hbusy
  exact hdone

/-- DONE <- 0 keeps the invariant. -/
theorem State.Inv.clearDone (h : s.Inv) : s.clearDone.Inv := by
  by_cases hp : s.phase = .idle
  · obtain ⟨hwidths, hbuffers, hcount, -, herr⟩ := (State.inv_iff_of_idle hp).mp h
    exact (State.inv_iff_of_idle (s := s.clearDone) hp).mpr
      ⟨hwidths, hbuffers, hcount, fun hdone => Bool.noConfusion hdone, herr⟩
  · have hclear : s.clearDone = s := by rw [State.clearDone, ← h.done_eq_false hp]
    exact hclear ▸ h

/-- The samples ahead are no part of the invariant. -/
theorem State.Inv.nextSample (h : s.Inv) : s.nextSample.Inv := h

end

/-- A number of W bits is held unchanged by a 32-bit register. -/
theorem ofNat32_toNat {wd : Width} {n : Nat} (h : n < 2 ^ wd.bits) : (BitVec.ofNat 32 n).toNat = n := by
  rw [BitVec.toNat_ofNat, Nat.mod_eq_of_lt (h.trans_le wd.two_pow_bits_le)]

/-! ### IDLE -/

/-- Acceptance leads to a safe state from any state, because it writes every register the invariant speaks of. -/
theorem State.accept_inv {s : State} {raw : Word} {f : BitVec 6} (signed : Bool) (hraw : raw.toNat < 2 ^ s.cfg.w)
    (hlegal : f.toNat ≤ s.cfg.w) (hdone : s.done = false) : (s.accept raw f signed).Inv := by
  have hib := s.cfg.ib_le
  refine (State.inv_iff_of_resolve rfl).mpr
    ⟨⟨hraw, Nat.two_pow_pos _, Nat.two_pow_pos _, Nat.two_pow_pos _, Nat.two_pow_pos _⟩, ⟨rfl, rfl, rfl, rfl⟩,
      ⟨hlegal, rfl, rfl, hdone⟩, ?_, rfl, rfl, rfl, rfl⟩
  simp only [State.accept_istart, State.accept_cfg, BitVec.toNat_ofNat]
  omega

theorem State.portRaw_lt (s : State) : s.portRaw.toNat < 2 ^ s.cfg.w := by
  rw [State.portRaw_toNat]
  exact Nat.mod_lt _ (Nat.two_pow_pos _)

theorem State.Inv.reject {s : State} (h : s.Inv) : s.reject.Inv := by
  obtain ⟨⟨hraw, hmag, hirem, hfrem, -⟩, hbuffers, -⟩ := h
  exact (State.inv_iff_of_idle rfl).mpr
    ⟨⟨hraw, hmag, hirem, hfrem, Nat.two_pow_pos _⟩, hbuffers, Nat.zero_le _, fun _ => ResultCode.noConfusion,
      fun _ => rfl⟩

theorem exec_phaseIdle_inv {s t : State} (h : s.Inv) (hp : s.phase = .idle) (hdone : s.done = false)
    (hexec : exec .phaseIdle s = .next t) : t.Inv := by
  obtain ⟨-, hlegal, rfl⟩ | ⟨-, -, rfl⟩ | ⟨-, rfl⟩ := exec_idle_eq_next.mp hexec
  · exact State.accept_inv _ s.portRaw_lt hlegal hdone
  · exact h.reject
  · exact hp ▸ h

/-! ### RESOLVE -/

theorem exec_phaseResolve_inv {s t : State} (h : s.Inv) (hp : s.phase = .resolve)
    (hexec : exec .phaseResolve s = .next t) : t.Inv := by
  obtain ⟨⟨hraw, -, -, -, herr⟩, hbuffers, ⟨hlegal, hflight⟩, hstart, hfcnt, hcount, hibuf, hfbuf⟩ :=
    (State.inv_iff_of_resolve hp).mp h
  obtain ⟨hmag, hfp, -⟩ := resolveRanges s.cfg.width s.raw.toNat s.fb.toNat s.sgn _ hraw hlegal rfl
  have hip := resolveFn_ip_lt s.sgn hraw hlegal
  have hfp' := resolveFn_fp_lt s.sgn hraw hlegal
  cases hexec
  refine (State.inv_iff_of_intdig rfl).mpr
    ⟨⟨hraw, ?_, ?_, ?_, herr⟩, hbuffers, ⟨hlegal, hflight⟩, hstart.le, ?_, ?_, hfcnt, hcount, hfbuf, fun i hi hle => ?_⟩
  · rwa [ofNat32_toNat hmag]
  · rwa [ofNat32_toNat hip]
  · rwa [ofNat32_toNat hfp']
  · dsimp only
    rw [ofNat32_toNat hip, hstart, Nat.sub_self, Nat.zero_add]
    exact intDigits_length_le hip
  · rwa [ofNat32_toNat hfp']
  · exact absurd hi (hstart ▸ hle).not_gt

/-! ### INTDIG -/

theorem isDigitByte_digitByte {d : Nat} (h : d < 10) : isDigitByte (digitByte d) := by
  rw [isDigitByte, digitByte_toNat h]
  omega

/-- IBUF holds digits from ISTART on. -/
def State.digitsFromStart (s : State) : Prop :=
  ∀ i < s.cfg.ib, s.istart.toNat ≤ i → isDigitByte (s.ibuf.get i)

/-- The byte of a digit extends the run of digits downwards. -/
theorem State.withIntDigit_digitsFromStart {s : State} (hpos : 0 < s.istart.toNat) (h : s.digitsFromStart) :
    s.withIntDigit.digitsFromStart := by
  intro i hi hle
  rw [State.withIntDigit_istart_toNat hpos] at hle
  by_cases hself : i = s.istart.toNat - 1
  · rw [hself, s.withIntDigit_ibuf_get]
    exact isDigitByte_digitByte (Nat.mod_lt _ (by decide))
  · rw [s.withIntDigit_ibuf_get_of_ne hself]
    exact h i hi (by omega)

/-- Digits without a sign are the used region of a number that is not negative. -/
theorem State.intRegion_of_digits {s : State} (hpol : s.pol = false) (hlt : s.istart.toNat < s.cfg.ib)
    (h : s.digitsFromStart) : s.intRegion := by
  simp only [State.intRegion, hpol, Bool.toNat_false, Nat.add_zero, Bool.false_eq_true, false_implies, true_and]
  exact ⟨hlt, h⟩

/-- The sign byte below the digits makes the used region of a negative number. -/
theorem State.withSign_intRegion {s : State} (hpol : s.pol = true) (hpos : 0 < s.istart.toNat)
    (hlt : s.istart.toNat < s.cfg.ib) (h : s.digitsFromStart) : s.withSign.intRegion := by
  have hstart := State.withSign_istart_toNat hpos
  simp only [State.intRegion, State.withSign_pol, hpol, Bool.toNat_true, State.withSign_cfg, hstart,
    Nat.sub_add_cancel hpos, true_implies]
  refine ⟨hlt, s.withSign_ibuf_get, fun i hi hle => ?_⟩
  rw [s.withSign_ibuf_get_of_ne (by omega)]
  exact h i hi hle

/-- FRACDIG begins with no fractional digit. -/
theorem State.fracdigOk_of_no_digit {s : State} (hint : s.intRegion) (hfrem : s.frem.toNat ≤ fracMask s.fb.toNat)
    (hfcnt : s.fcnt = 0#7) (hcount : s.ocount = 0#8) : s.fracdigOk := by
  have hnone : s.fcnt.toNat = 0 := by rw [hfcnt]; rfl
  have hk := s.cfg.k_legal.1
  exact ⟨hint, ⟨by omega, fun i hi => by omega⟩, hfrem, by omega, fun hone => by omega, hcount⟩

/-- While integer digits are left, the region's lower end is two bytes or more above the buffer's (R144). -/
theorem State.intdigOk.two_le_istart {s : State} (h : s.intdigOk) : 2 ≤ s.istart.toNat := by
  obtain ⟨-, hroom, -⟩ := h
  have hlen := intDigits_length_pos s.irem.isLt
  rw [Config.ib_eq] at hroom
  omega

theorem State.withIntDigit_widthsFit {s : State} (h : s.widthsFit) : s.withIntDigit.widthsFit := by
  obtain ⟨hraw, hmag, hirem, hfrem, herr⟩ := h
  refine ⟨hraw, hmag, ?_, hfrem, herr⟩
  rw [State.withIntDigit_irem_toNat]
  exact (Nat.div_le_self _ _).trans_lt hirem

theorem State.withIntDigit_buffersFit {s : State} (h : s.buffersFit) (hin : s.istart.toNat - 1 < s.cfg.ib) :
    s.withIntDigit.buffersFit := by
  obtain ⟨hwf, hwithin, hfbuf⟩ := h
  exact ⟨Memory.wf_put hwf _ _, Memory.within_put hwithin hin _, hfbuf⟩

theorem exec_phaseIntdig_inv {s t : State} (h : s.Inv) (hp : s.phase = .intdig)
    (hexec : exec .phaseIntdig s = .next t) : t.Inv := by
  obtain ⟨hwidths, hbuffers, hflight, hok⟩ := (State.inv_iff_of_intdig hp).mp h
  have htwo := hok.two_le_istart
  obtain ⟨hle, hroom, hfrem, hfcnt, hcount, hfbuf, hdigits⟩ := hok
  obtain ⟨hpos, hin, hcases⟩ := exec_intdig_eq_next.mp hexec
  have hstart := State.withIntDigit_istart_toNat hpos
  have hwidths' := State.withIntDigit_widthsFit hwidths
  have hbuffers' := State.withIntDigit_buffersFit hbuffers hin
  have hdigits' := State.withIntDigit_digitsFromStart hpos hdigits
  obtain ⟨-, hfin⟩ | ⟨hmore, rfl⟩ := hcases
  · have hlt : s.withIntDigit.istart.toNat < s.withIntDigit.cfg.ib := by rw [hstart]; exact hin
    obtain ⟨hpol, rfl⟩ | ⟨hpol, hpos', hin', rfl⟩ := finishIntdig_eq_next.mp hfin
    · exact (State.inv_iff_of_fracdig rfl).mpr ⟨hwidths', hbuffers', hflight,
        State.fracdigOk_of_no_digit (State.intRegion_of_digits hpol hlt hdigits') hfrem hfcnt hcount⟩
    · obtain ⟨hwf, hwithin, hfbuf'⟩ := hbuffers'
      exact (State.inv_iff_of_fracdig rfl).mpr ⟨hwidths',
        ⟨Memory.wf_put hwf _ _, Memory.within_put hwithin hin' _, hfbuf'⟩, hflight,
        State.fracdigOk_of_no_digit (State.withSign_intRegion hpol hpos' hlt hdigits') hfrem hfcnt hcount⟩
  · refine (State.inv_iff_of_intdig (s := s.withIntDigit) hp).mpr
      ⟨hwidths', hbuffers', hflight, ?_, ?_, hfrem, hfcnt, hcount, hfbuf, hdigits'⟩
    · rw [hstart]
      exact (Nat.sub_le _ _).trans hle
    · rw [intDigits_of_ten_le s.irem.isLt (by omega), List.length_append, List.length_singleton] at hroom
      rw [hstart, State.withIntDigit_irem_toNat, State.withIntDigit_cfg]
      omega

/-! ### FRACDIG -/

theorem State.withFracDigit_widthsFit {s : State} (h : s.widthsFit) : s.withFracDigit.widthsFit := by
  obtain ⟨hraw, hmag, hirem, -, herr⟩ := h
  refine ⟨hraw, hmag, hirem, ?_, herr⟩
  rw [State.withFracDigit_frem_toNat]
  exact nextRemainder_lt _ _ _

theorem State.withFracDigit_buffersFit {s : State} (h : s.buffersFit) (hroom : s.fcnt.toNat < s.cfg.k) :
    s.withFracDigit.buffersFit := by
  obtain ⟨hwf, hwithin, hwf', hwithin'⟩ := h
  exact ⟨hwf, hwithin, Memory.wf_put hwf' _ _, Memory.within_put hwithin' hroom _⟩

/-- The byte of a digit extends the used region of FBUF upwards. -/
theorem State.withFracDigit_fracRegion {s : State} (h : s.fracRegion) (hroom : s.fcnt.toNat < s.cfg.k) :
    s.withFracDigit.fracRegion := by
  have hcount := State.withFracDigit_fcnt_toNat hroom
  refine ⟨by rw [hcount]; exact hroom, fun i hi => ?_⟩
  rw [hcount] at hi
  by_cases hself : i = s.fcnt.toNat
  · rw [hself, s.withFracDigit_fbuf_get]
    exact isDigitByte_digitByte (fracDigit_lt_ten _ _ _)
  · rw [s.withFracDigit_fbuf_get_of_ne hself]
    exact h.2 i (by omega)

theorem exec_phaseFracdig_inv {s t : State} (h : s.Inv) (hp : s.phase = .fracdig)
    (hexec : exec .phaseFracdig s = .next t) : t.Inv := by
  obtain ⟨hwidths, hbuffers, hflight, hint, hfrac, hfrem, hroom, -, hcount⟩ := (State.inv_iff_of_fracdig hp).mp h
  have hwidths' := State.withFracDigit_widthsFit hwidths
  have hbuffers' := State.withFracDigit_buffersFit hbuffers hroom
  have hfrac' := State.withFracDigit_fracRegion hfrac hroom
  have hfcnt := State.withFracDigit_fcnt_toNat hroom
  have hfrem' : s.withFracDigit.frem.toNat ≤ fracMask s.fb.toNat := by
    rw [State.withFracDigit_frem_toNat]
    exact nextRemainder_le_fracMask _ _ _
  have hone : 1 ≤ s.withFracDigit.fcnt.toNat := by omega
  have hcursor := s.istart_setWidth_toNat
  obtain ⟨-, ⟨-, rfl⟩ | ⟨hmore, rfl⟩⟩ := exec_fracdig_eq_next.mp hexec
  · cases hpol : s.pol with
    | true =>
      exact (State.inv_iff_of_emitSign rfl).mpr
        ⟨hwidths', hbuffers', hflight, ⟨hint, hfrac', hfrem', hone⟩, hpol, hcursor, hcount⟩
    | false =>
      refine (State.inv_iff_of_emitInt rfl).mpr
        ⟨hwidths', hbuffers', hflight, ⟨hint, hfrac', hfrem', hone⟩, ?_, ?_, ?_⟩
      all_goals
        have hlt := hint.1
        simp only [State.withFracDigit_pol, State.withFracDigit_istart, State.withFracDigit_cfg,
          State.withFracDigit_ocount, hpol, hcursor, hcount, Bool.toNat_false, BitVec.toNat_ofNat] at hlt ⊢
        omega
  · rw [not_or] at hmore
    refine (State.inv_iff_of_fracdig (s := s.withFracDigit) hp).mpr
      ⟨hwidths', hbuffers', hflight, hint, hfrac', hfrem', ?_, fun _ hzero => hmore.1 ?_, hcount⟩
    · rw [hfcnt, State.withFracDigit_cfg]
      omega
    · rw [← State.withFracDigit_frem_toNat, hzero]
      rfl

/-! ### Emission -/

/-- A sink failure ends the command with a code that fits EW bits. -/
theorem State.Inv.sinkFailure {s : State} (h : s.Inv) : (s.complete .errSink s.sinkCode).Inv := by
  have hcount := h.ocount_le
  obtain ⟨⟨hraw, hmag, hirem, hfrem, -⟩, hbuffers, -⟩ := h
  refine (State.inv_iff_of_idle rfl).mpr
    ⟨⟨hraw, hmag, hirem, hfrem, ?_⟩, hbuffers, hcount, fun _ => ResultCode.noConfusion, fun hne => absurd rfl hne⟩
  have hcode : s.sinkCode < 2 ^ s.cfg.ew := Nat.mod_lt _ (Nat.two_pow_pos _)
  exact (BitVec.toNat_ofNat _ _).trans_lt ((Nat.mod_le _ _).trans_lt hcode)

theorem State.Inv.ocount_lt {s : State} (h : s.Inv) : s.ocount.toNat < 255 := by
  have := h.ocount_le
  have := s.cfg.ib_le
  have := s.cfg.k_legal.2
  omega

/-- The byte taken, OCOUNT follows the cursor. -/
theorem State.Inv.taken {s : State} (h : s.Inv) (hvalid : s.outValid = true) : s.taken.Inv := by
  have hocount := State.ocount_add_toNat h.ocount_lt
  obtain hp | hp | hp | hp := State.outValid_iff.mp hvalid
  case inl =>
    obtain ⟨hwidths, hbuffers, hflight, ⟨hint, hemit⟩, hpol, hcursor, hcount⟩ := (State.inv_iff_of_emitSign hp).mp h
    have hlt := hint.1
    rw [hpol, Bool.toNat_true] at hlt
    have hecur := State.ecur_add_toNat_of_lt_ib (s := s) (by omega)
    rw [hcount, BitVec.toNat_ofNat] at hocount
    rw [State.taken_of_emitSign hp]
    refine (State.inv_iff_of_emitInt rfl).mpr ⟨hwidths, hbuffers, hflight, ⟨hint, hemit⟩, ?_, ?_, ?_⟩
    all_goals
      simp only [hpol, hecur, Bool.toNat_true, hcount, hocount]
      omega
  case inr.inl =>
    obtain ⟨hwidths, hbuffers, hflight, ⟨hint, hemit⟩, hregion, hcursor, hcount⟩ := (State.inv_iff_of_emitInt hp).mp h
    have hecur := State.ecur_add_toNat_of_lt_ib hcursor
    rw [State.taken_of_emitInt hp hcursor]
    by_cases hlast : s.ecur.toNat + 1 = s.cfg.ib
    · refine (State.inv_iff_of_emitPoint (if_pos hlast)).mpr ⟨hwidths, hbuffers, hflight, ⟨hint, hemit⟩, ?_⟩
      dsimp only
      omega
    · refine (State.inv_iff_of_emitInt (if_neg hlast)).mpr ⟨hwidths, hbuffers, hflight, ⟨hint, hemit⟩, ?_, ?_, ?_⟩
      all_goals
        dsimp only
        omega
  case inr.inr.inl =>
    obtain ⟨hwidths, hbuffers, hflight, ⟨hint, hfrac, hfrem, hone⟩, hcount⟩ := (State.inv_iff_of_emitPoint hp).mp h
    rw [State.taken_of_emitPoint hp]
    refine (State.inv_iff_of_emitFrac rfl).mpr ⟨hwidths, hbuffers, hflight, ⟨hint, hfrac, hfrem, hone⟩, hone, ?_⟩
    dsimp only
    rw [hocount, hcount]
    rfl
  case inr.inr.inr =>
    have hbound := h.ocount_le
    obtain ⟨hwidths, hbuffers, hflight, ⟨hint, hfrac, hemit⟩, hcursor, hcount⟩ := (State.inv_iff_of_emitFrac hp).mp h
    have hlt : s.ecur.toNat < s.cfg.k := hcursor.trans_le hfrac.1
    have hk := s.cfg.k_legal.2
    have hecur := ecur_add_toNat (e := s.ecur) (by omega)
    by_cases hlast : s.ecur.toNat + 1 = s.fcnt.toNat
    · rw [State.taken_of_emitFrac_last hp hlt hlast]
      obtain ⟨hraw, hmag, hirem, hfrem, -⟩ := hwidths
      refine (State.inv_iff_of_idle rfl).mpr ⟨⟨hraw, hmag, hirem, hfrem, Nat.two_pow_pos _⟩, hbuffers, ?_,
        fun _ => ResultCode.noConfusion, fun _ => rfl⟩
      have := hfrac.1
      dsimp only
      omega
    · rw [State.taken_of_emitFrac hp hlt hlast]
      refine (State.inv_iff_of_emitFrac (s := { s with ocount := s.ocount + 1#8, ecur := s.ecur + 1#7 }) hp).mpr
        ⟨hwidths, hbuffers, hflight, ⟨hint, hfrac, hemit⟩, ?_, ?_⟩
      all_goals
        dsimp only
        omega

theorem exec_emission_inv {s t : State} (h : s.Inv) (hvalid : s.outValid = true)
    (hexec : exec s.phase.instr s = .next t) : t.Inv := by
  obtain ⟨-, ⟨-, rfl⟩ | ⟨-, -, -, rfl⟩ | ⟨-, -, rfl⟩⟩ := (exec_emission_eq_next hvalid).mp hexec
  exacts [h.sinkFailure, h.taken hvalid, h]

/-! ### The step -/

theorem exec_phase_rule_inv {s t : State} (h : s.Inv) (hdone : s.done = false)
    (hexec : exec s.phase.instr s = .next t) : t.Inv := by
  have hemit (hvalid : s.outValid = true) : t.Inv := exec_emission_inv h hvalid hexec
  cases hp : s.phase <;> rw [hp] at hexec
  case idle => exact exec_phaseIdle_inv h hp hdone hexec
  case resolve => exact exec_phaseResolve_inv h hp hexec
  case intdig => exact exec_phaseIntdig_inv h hp hexec
  case fracdig => exact exec_phaseFracdig_inv h hp hexec
  all_goals exact hemit (State.outValid_iff.mpr (by simp [hp]))

/-- Settles O52: the reset state is safe, and DONE <- 0 and then the rule of the phase keep a state safe. -/
theorem stepKeepsInv : Obligations.StepKeepsInv := by
  intro s t h hstep
  cases hrst : s.input.rst with
  | true =>
    rw [step_of_rst hrst] at hstep
    cases hstep
    exact (resetSatisfiesInv s.cfg s.script).nextSample
  | false =>
    obtain ⟨u, hexec, rfl⟩ := exec_phase_rule_of_step hstep hrst
    exact (exec_phase_rule_inv h.clearDone rfl hexec).nextSample

/-! ### The byte on offer -/

/-- A digit byte is `'0' + d` with d at most 9 (R82). -/
theorem isDigitByte_iff {b : Byte} : isDigitByte b ↔ ∃ d ≤ 9, b = BitVec.ofNat 8 (0x30 + d) := by
  constructor
  · intro h
    refine ⟨b.toNat - 0x30, by omega, BitVec.eq_of_toNat_eq ?_⟩
    rw [BitVec.toNat_ofNat]
    omega
  · rintro ⟨d, hd, rfl⟩
    exact isDigitByte_digitByte (Nat.lt_succ_of_le hd)

/-- Settles O37: IBUF below the digits holds the sign, and the cursor is inside the used region. -/
theorem offeredByteIsText : Obligations.OfferedByteIsText := by
  intro s h hvalid
  obtain hp | hp | hp | hp := State.outValid_iff.mp hvalid
  case inl =>
    obtain ⟨-, -, -, ⟨⟨hlt, hminus, -⟩, -⟩, hpol, hcursor, -⟩ := (State.inv_iff_of_emitSign hp).mp h
    refine ⟨_, (State.outByte_eq_ok_of_ibuf (.inl hp)).mpr ⟨by omega, rfl⟩, fun _ => ?_, ?_, ?_⟩
    · rw [hcursor]
      exact hminus hpol
    all_goals simp [State.outSeg, hp]
  case inr.inl =>
    obtain ⟨-, -, -, ⟨⟨-, -, hdigits⟩, -⟩, hregion, hcursor, -⟩ := (State.inv_iff_of_emitInt hp).mp h
    refine ⟨_, (State.outByte_eq_ok_of_ibuf (.inr hp)).mpr ⟨hcursor, rfl⟩, ?_,
      fun _ => isDigitByte_iff.mp (hdigits _ hcursor hregion), ?_⟩
    all_goals simp [State.outSeg, hp]
  case inr.inr.inl =>
    refine ⟨_, State.outByte_of_emitPoint hp, ?_, ?_, fun _ => rfl⟩
    all_goals simp [State.outSeg, hp]
  case inr.inr.inr =>
    obtain ⟨-, -, -, ⟨-, ⟨hfcnt, hdigits⟩, -⟩, hcursor, -⟩ := (State.inv_iff_of_emitFrac hp).mp h
    refine ⟨_, (State.outByte_eq_ok_of_fbuf hp).mpr ⟨hcursor.trans_le hfcnt, rfl⟩, ?_,
      fun _ => isDigitByte_iff.mp (hdigits _ hcursor), ?_⟩
    all_goals simp [State.outSeg, hp]

/-! ### A step from a safe state goes on -/

theorem exec_phaseIdle_next (s : State) : ∃ t, exec .phaseIdle s = .next t := by
  cases hvalid : s.input.cmdValid with
  | false => exact ⟨_, exec_phaseIdle_of_no_command hvalid⟩
  | true =>
    obtain hlegal | hillegal := Nat.lt_or_ge s.cfg.w s.portFbits.toNat
    exacts [⟨_, exec_phaseIdle_of_illegal hvalid hlegal⟩, ⟨_, exec_phaseIdle_of_legal hvalid hillegal⟩]

theorem exec_phaseIntdig_next {s : State} (h : s.intdigOk) : ∃ t, exec .phaseIntdig s = .next t := by
  have htwo := h.two_le_istart
  by_cases hsign : s.irem.toNat / 10 = 0 ∧ s.pol = true
  · exact ⟨_, exec_phaseIntdig_of_sign htwo h.1 hsign.1 hsign.2⟩
  · exact ⟨_, exec_phaseIntdig_of_no_sign (by omega) h.1 hsign⟩

theorem exec_phaseFracdig_next {s : State} (hroom : s.fcnt.toNat < s.cfg.k) : ∃ t, exec .phaseFracdig s = .next t := by
  by_cases hend : s.fracEnds
  exacts [⟨_, exec_phaseFracdig_of_ends hroom hend⟩, ⟨_, exec_phaseFracdig_of_not_ends hroom hend⟩]

theorem exec_emission_next {s : State} (h : s.Inv) (hvalid : s.outValid = true) :
    ∃ t, exec s.phase.instr s = .next t := by
  obtain ⟨b, hbyte, -⟩ := offeredByteIsText s h hvalid
  rw [exec_emission hvalid]
  exact ⟨_, emitStep_eq_handshake hbyte h.ocount_lt⟩

theorem exec_phase_rule_next {s : State} (h : s.Inv) : ∃ t, exec s.phase.instr s = .next t := by
  cases hp : s.phase
  case idle => exact exec_phaseIdle_next s
  case resolve => exact ⟨_, rfl⟩
  case intdig =>
    obtain ⟨-, -, -, hok⟩ := (State.inv_iff_of_intdig hp).mp h
    exact exec_phaseIntdig_next hok
  case fracdig =>
    obtain ⟨-, -, -, -, -, -, hroom, -⟩ := (State.inv_iff_of_fracdig hp).mp h
    exact exec_phaseFracdig_next hroom
  all_goals exact hp ▸ exec_emission_next h (State.outValid_iff.mpr (by simp [hp]))

/-- Settles O53: reset always goes on, and so does the rule of each phase in a safe state. -/
theorem safeStateStepsOn : Obligations.SafeStateStepsOn := by
  intro s h
  cases hrst : s.input.rst with
  | true => exact ⟨_, step_of_rst hrst⟩
  | false =>
    obtain ⟨t, hexec⟩ := exec_phase_rule_next h.clearDone
    exact ⟨t.nextSample, (step_eq_phase_rule hrst).trans (congrArg _ hexec)⟩

end Sys2Proof.Machine
end

section
/-! The bytes still to send (40_command.md R105, 44_emission.md R180): the digit phases only move them from the
registers into the buffers, a byte taken is the first of them, and so a command stays on the way to its own FORMAT string. -/

namespace Sys2Proof.Machine

/-! ### The used regions of the buffers as bytes -/

/-- The used region of IBUF. -/
def State.intBytes (s : State) : List Byte := s.ibuf.slice s.istart.toNat (s.cfg.ib - s.istart.toNat)

/-- The used region of FBUF. -/
def State.fracBytes (s : State) : List Byte := s.fbuf.slice 0 s.fcnt.toNat

theorem Memory.slice_eq_cons {m : Memory} {lo hi : Nat} (h : lo < hi) :
    m.slice lo (hi - lo) = m.get lo :: m.slice (lo + 1) (hi - (lo + 1)) := by
  rw [show hi - lo = hi - (lo + 1) + 1 by omega, Memory.slice_succ]

/-- A byte pushed below the used region of IBUF is its new first byte. -/
theorem Memory.slice_put_below {m : Memory} {start cap : Nat} {b : Byte} (hb : b ≠ 0#8) (hpos : 0 < start)
    (hle : start ≤ cap) :
    (m.put (start - 1) b).slice (start - 1) (cap - (start - 1)) = b :: m.slice start (cap - start) := by
  rw [Memory.slice_eq_cons (by omega), Nat.sub_add_cancel hpos, m.get_put_self_of_ne_zero _ hb,
    Memory.slice_congr fun i hi _ => m.get_put_ne b (by omega)]

theorem State.withIntDigit_intBytes {s : State} (hpos : 0 < s.istart.toNat) (hle : s.istart.toNat ≤ s.cfg.ib) :
    s.withIntDigit.intBytes = digitByte (s.irem.toNat % 10) :: s.intBytes := by
  rw [State.intBytes, State.withIntDigit_istart_toNat hpos]
  exact Memory.slice_put_below (digitByte_ne_zero (Nat.mod_lt _ (by decide))) hpos hle

theorem State.withSign_intBytes {s : State} (hpos : 0 < s.istart.toNat) (hle : s.istart.toNat ≤ s.cfg.ib) :
    s.withSign.intBytes = minusByte :: s.intBytes := by
  rw [State.intBytes, State.withSign_istart_toNat hpos]
  exact Memory.slice_put_below (by decide) hpos hle

theorem State.withFracDigit_fracBytes {s : State} (hroom : s.fcnt.toNat < s.cfg.k) :
    s.withFracDigit.fracBytes = s.fracBytes ++ [digitByte (fracDigit s.cfg.width s.frem.toNat s.fb.toNat)] := by
  rw [State.fracBytes, State.withFracDigit_fcnt_toNat hroom, Memory.slice_append_get, Nat.zero_add,
    State.withFracDigit_fbuf_get,
    Memory.slice_congr fun i _ hi => s.withFracDigit_fbuf_get_of_ne (show i ≠ s.fcnt.toNat by omega)]
  rfl

/-! ### What is pending, phase by phase -/

section
variable {s : State}

theorem State.pending_of_idle (hp : s.phase = .idle) : s.pending = [] := by
  simp only [State.pending, hp]

theorem State.pending_of_resolve (hp : s.phase = .resolve) :
    s.pending = format s.cfg s.raw.toNat s.fb.toNat s.sgn := by
  simp only [State.pending, hp]

theorem State.pending_of_intdig (hp : s.phase = .intdig) :
    s.pending = signBytes s.pol ++ (intDigits s.irem.toNat).map digitByte ++ s.intBytes ++ [pointByte] ++
      (fracDigits s.cfg s.frem.toNat s.fb.toNat).map digitByte := by
  simp only [State.pending, hp]
  rfl

theorem State.pending_of_fracdig (hp : s.phase = .fracdig) :
    s.pending = s.intBytes ++ [pointByte] ++ s.fracBytes ++
      (fracDigitsLoop s.cfg.width s.fb.toNat (s.cfg.k - s.fcnt.toNat) s.frem.toNat).map digitByte := by
  simp only [State.pending, hp]
  rfl

theorem State.pending_of_ibuf (hp : s.phase = .emitSign ∨ s.phase = .emitInt) :
    s.pending = s.ibuf.slice s.ecur.toNat (s.cfg.ib - s.ecur.toNat) ++ [pointByte] ++ s.fracBytes := by
  obtain hp | hp := hp <;> simp only [State.pending, hp] <;> rfl

theorem State.pending_of_emitPoint (hp : s.phase = .emitPoint) : s.pending = [pointByte] ++ s.fracBytes := by
  simp only [State.pending, hp]
  rfl

theorem State.pending_of_emitFrac (hp : s.phase = .emitFrac) :
    s.pending = s.fbuf.slice s.ecur.toNat (s.fcnt.toNat - s.ecur.toNat) := by
  simp only [State.pending, hp]

end

/-! ### The digit phases keep what is pending -/

theorem exec_phaseResolve_pending {s t : State} (h : s.Inv) (hp : s.phase = .resolve)
    (hexec : exec .phaseResolve s = .next t) : t.pending = s.pending := by
  obtain ⟨⟨hraw, -⟩, -, ⟨hlegal, -⟩, hstart, -⟩ := (State.inv_iff_of_resolve hp).mp h
  cases hexec
  rw [State.pending_of_intdig rfl, State.pending_of_resolve hp]
  simp only [State.intBytes, hstart, Nat.sub_self, Memory.slice_zero, List.append_nil,
    ofNat32_toNat (resolveFn_ip_lt s.sgn hraw hlegal), ofNat32_toNat (resolveFn_fp_lt s.sgn hraw hlegal), format]

theorem State.pending_of_fracdig_first {s : State} (hp : s.phase = .fracdig) (hfcnt : s.fcnt = 0#7) :
    s.pending = s.intBytes ++ [pointByte] ++ (fracDigits s.cfg s.frem.toNat s.fb.toNat).map digitByte := by
  have hnone : s.fcnt.toNat = 0 := by rw [hfcnt]; rfl
  rw [State.pending_of_fracdig hp, State.fracBytes, hnone, Memory.slice_zero, List.append_nil, Nat.sub_zero, fracDigits]

theorem exec_phaseIntdig_pending {s t : State} (h : s.Inv) (hp : s.phase = .intdig)
    (hexec : exec .phaseIntdig s = .next t) : t.pending = s.pending := by
  obtain ⟨-, -, -, hle, -, -, hfcnt, -⟩ := (State.inv_iff_of_intdig hp).mp h
  obtain ⟨hpos, hin, hcases⟩ := exec_intdig_eq_next.mp hexec
  have hbytes := State.withIntDigit_intBytes hpos hle
  rw [State.pending_of_intdig hp]
  obtain ⟨hlast, hfin⟩ | ⟨hmore, rfl⟩ := hcases
  · have hdigits : intDigits s.irem.toNat = [s.irem.toNat % 10] := by rw [intDigits_eq s.irem.isLt, if_pos hlast]
    obtain ⟨hpol, rfl⟩ | ⟨hpol, hpos', hin', rfl⟩ := finishIntdig_eq_next.mp hfin <;>
      rw [State.withIntDigit_pol] at hpol
    · refine (State.pending_of_fracdig_first (s := { s.withIntDigit with phase := .fracdig }) rfl hfcnt).trans ?_
      change s.withIntDigit.intBytes ++ _ ++ _ = _
      rw [hbytes, hdigits, hpol]
      rfl
    · have hregion := State.withSign_intBytes hpos'
        (by rw [State.withIntDigit_istart_toNat hpos, State.withIntDigit_cfg]; omega)
      rw [State.pending_of_fracdig_first (s := s.withIntDigit.withSign) rfl hfcnt, hregion, hbytes, hdigits, hpol]
      rfl
  · rw [State.pending_of_intdig (s := s.withIntDigit) hp, hbytes, State.withIntDigit_irem_toNat,
      intDigits_of_ten_le s.irem.isLt (by omega)]
    simp

/-- The digits FRACDIG extracts after the next one (R167). -/
def State.laterFracDigits (s : State) : List Nat :=
  if nextRemainder s.cfg.width s.frem.toNat s.fb.toNat = 0 then []
  else fracDigitsLoop s.cfg.width s.fb.toNat (s.cfg.k - (s.fcnt.toNat + 1))
    (nextRemainder s.cfg.width s.frem.toNat s.fb.toNat)

theorem State.fracDigitsLoop_eq_cons {s : State} (hroom : s.fcnt.toNat < s.cfg.k) :
    fracDigitsLoop s.cfg.width s.fb.toNat (s.cfg.k - s.fcnt.toNat) s.frem.toNat =
      fracDigit s.cfg.width s.frem.toNat s.fb.toNat :: s.laterFracDigits := by
  rw [show s.cfg.k - s.fcnt.toNat = s.cfg.k - (s.fcnt.toNat + 1) + 1 by omega, fracDigitsLoop_succ]
  rfl

theorem State.laterFracDigits_of_ends {s : State} (hend : s.fracEnds) : s.laterFracDigits = [] := by
  unfold State.laterFracDigits
  split_ifs with hzero
  · rfl
  · rw [hend.resolve_left hzero, Nat.sub_self, fracDigitsLoop_zero]

theorem State.laterFracDigits_of_not_ends {s : State} (hroom : s.fcnt.toNat < s.cfg.k) (hmore : ¬s.fracEnds) :
    s.laterFracDigits = fracDigitsLoop s.cfg.width s.fb.toNat (s.cfg.k - s.withFracDigit.fcnt.toNat)
      s.withFracDigit.frem.toNat := by
  rw [State.laterFracDigits, if_neg fun hzero => hmore (.inl hzero), State.withFracDigit_fcnt_toNat hroom,
    State.withFracDigit_frem_toNat]

/-- The next digit, counted as written. -/
theorem State.pending_of_fracdig_digit {s : State} (hp : s.phase = .fracdig) (hroom : s.fcnt.toNat < s.cfg.k) :
    s.pending = s.intBytes ++ [pointByte] ++ s.withFracDigit.fracBytes ++ s.laterFracDigits.map digitByte := by
  rw [State.pending_of_fracdig hp, State.fracDigitsLoop_eq_cons hroom, State.withFracDigit_fracBytes hroom,
    List.map_cons]
  simp only [List.append_assoc, List.cons_append, List.nil_append]

/-- FRACDIG leads to the first emission phase of the string. -/
theorem emitPhase_of_pol (pol : Bool) :
    (if pol then Phase.emitSign else Phase.emitInt) = .emitSign ∨
      (if pol then Phase.emitSign else Phase.emitInt) = .emitInt := by
  cases pol
  exacts [.inr rfl, .inl rfl]

theorem exec_phaseFracdig_pending {s t : State} (hp : s.phase = .fracdig)
    (hexec : exec .phaseFracdig s = .next t) : t.pending = s.pending := by
  obtain ⟨hroom, ⟨hend, rfl⟩ | ⟨hmore, rfl⟩⟩ := exec_fracdig_eq_next.mp hexec
  · rw [State.pending_of_fracdig_digit hp hroom, State.laterFracDigits_of_ends hend, List.map_nil, List.append_nil,
      State.pending_of_ibuf (emitPhase_of_pol s.pol)]
    dsimp only
    rw [s.istart_setWidth_toNat]
    rfl
  · rw [State.pending_of_fracdig_digit hp hroom, State.laterFracDigits_of_not_ends hroom hmore,
      State.pending_of_fracdig (s := s.withFracDigit) hp]
    rfl

/-- A digit phase changes neither the bytes still to send nor their number. -/
theorem exec_digit_phase_pending {s t : State} (h : s.Inv) (hbusy : s.phase ≠ .idle) (hquiet : s.outValid = false)
    (hexec : exec s.phase.instr s = .next t) : t.pending = s.pending ∧ t.ocount = s.ocount := by
  have hquiet := mt State.outValid_iff.mpr (Bool.eq_false_iff.mp hquiet)
  cases hp : s.phase <;> rw [hp] at hexec
  case idle => exact absurd hp hbusy
  case resolve => exact ⟨exec_phaseResolve_pending h hp hexec, by cases hexec; rfl⟩
  case intdig => exact ⟨exec_phaseIntdig_pending h hp hexec, by rw [exec_phaseIntdig_frame hexec]⟩
  case fracdig => exact ⟨exec_phaseFracdig_pending hp hexec, by rw [exec_phaseFracdig_frame hexec]⟩
  all_goals simp [hp] at hquiet

/-! ### A byte taken is the first one pending -/

theorem State.Inv.pending_eq_cons {s : State} {b : Byte} (h : s.Inv) (hvalid : s.outValid = true)
    (hbyte : s.outByte = .ok b) : s.pending = b :: s.taken.pending := by
  obtain hp | hp | hp | hp := State.outValid_iff.mp hvalid
  case inl =>
    obtain ⟨hcursor, rfl⟩ := (State.outByte_eq_ok_of_ibuf (.inl hp)).mp hbyte
    rw [State.taken_of_emitSign hp, State.pending_of_ibuf (.inl hp), State.pending_of_ibuf (.inr rfl),
      Memory.slice_eq_cons hcursor]
    dsimp only
    rw [State.ecur_add_toNat_of_lt_ib hcursor]
    rfl
  case inr.inl =>
    obtain ⟨hcursor, rfl⟩ := (State.outByte_eq_ok_of_ibuf (.inr hp)).mp hbyte
    rw [State.taken_of_emitInt hp hcursor, State.pending_of_ibuf (.inr hp), Memory.slice_eq_cons hcursor]
    by_cases hlast : s.ecur.toNat + 1 = s.cfg.ib
    · rw [State.pending_of_emitPoint (if_pos hlast), hlast, Nat.sub_self, Memory.slice_zero]
      rfl
    · rw [State.pending_of_ibuf (.inr (if_neg hlast))]
      dsimp only
      rw [State.ecur_add_toNat_of_lt_ib hcursor]
      rfl
  case inr.inr.inl =>
    obtain rfl := Except.ok.inj ((State.outByte_of_emitPoint hp).symm.trans hbyte)
    rw [State.taken_of_emitPoint hp, State.pending_of_emitPoint hp, State.pending_of_emitFrac rfl]
    rfl
  case inr.inr.inr =>
    obtain ⟨-, -, -, -, hlt, -⟩ := (State.inv_iff_of_emitFrac hp).mp h
    obtain ⟨hcursor, rfl⟩ := (State.outByte_eq_ok_of_fbuf hp).mp hbyte
    have hk := s.cfg.k_legal.2
    rw [State.pending_of_emitFrac hp, Memory.slice_eq_cons hlt]
    by_cases hlast : s.ecur.toNat + 1 = s.fcnt.toNat
    · rw [State.taken_of_emitFrac_last hp hcursor hlast, State.pending_of_idle rfl, hlast, Nat.sub_self,
        Memory.slice_zero]
    · rw [State.taken_of_emitFrac hp hcursor hlast,
        State.pending_of_emitFrac (s := { s with ocount := s.ocount + 1#8, ecur := s.ecur + 1#7 }) hp]
      dsimp only
      rw [ecur_add_toNat (by omega)]

/-- In emission a byte is pending. -/
theorem State.Inv.pending_ne_nil {s : State} (h : s.Inv) (hvalid : s.outValid = true) : s.pending ≠ [] := by
  obtain ⟨b, hbyte, -⟩ := offeredByteIsText s h hvalid
  rw [h.pending_eq_cons hvalid hbyte]
  exact List.cons_ne_nil _ _

/-- After a byte is taken the machine is in emission still, or in IDLE. -/
theorem State.taken_outValid {s : State} {b : Byte} (hvalid : s.outValid = true) (hbyte : s.outByte = .ok b)
    (hbusy : s.taken.phase ≠ .idle) : s.taken.outValid = true := by
  rw [State.outValid_iff]
  obtain hp | hp | hp | hp := State.outValid_iff.mp hvalid
  case inl => simp [State.taken_of_emitSign hp]
  case inr.inl =>
    obtain ⟨hcursor, -⟩ := (State.outByte_eq_ok_of_ibuf (.inr hp)).mp hbyte
    by_cases hlast : s.ecur.toNat + 1 = s.cfg.ib <;> simp [State.taken_of_emitInt hp hcursor, hlast]
  case inr.inr.inl => simp [State.taken_of_emitPoint hp]
  case inr.inr.inr =>
    obtain ⟨hcursor, -⟩ := (State.outByte_eq_ok_of_fbuf hp).mp hbyte
    by_cases hlast : s.ecur.toNat + 1 = s.fcnt.toNat
    · exact absurd (by rw [State.taken_of_emitFrac_last hp hcursor hlast]) hbusy
    · simp [State.taken_of_emitFrac hp hcursor hlast, hp]

/-- The byte taken was the last one exactly when nothing is pending after it. -/
theorem State.Inv.taken_pending_eq_nil_iff {s : State} {b : Byte} (h : s.Inv) (hvalid : s.outValid = true)
    (hbyte : s.outByte = .ok b) : s.taken.pending = [] ↔ s.taken.phase = .idle := by
  refine ⟨fun hnil => ?_, State.pending_of_idle⟩
  by_contra hbusy
  exact (h.taken hvalid).pending_ne_nil (State.taken_outValid hvalid hbyte hbusy) hnil

/-! ### On track -/

/-- The command's own string. -/
def State.text (s : State) : List Byte := format s.cfg s.raw.toNat s.fb.toNat s.sgn

theorem State.onTrack_iff {s : State} :
    s.onTrack ↔ (s.phase ≠ .idle → s.pending = s.text.drop s.ocount.toNat) := Iff.rfl

theorem exec_phase_rule_text {s t : State} (hbusy : s.phase ≠ .idle) (hexec : exec s.phase.instr s = .next t) :
    t.text = s.text := by
  obtain ⟨hraw, hfb, hsgn⟩ := State.operands_eq_iff.mp (exec_phase_rule_operands hbusy hexec)
  rw [State.text, State.text, hraw, hfb, hsgn, (exec_phase_rule_cfg_script hexec).1]

theorem exec_phaseIdle_onTrack {s t : State} (hexec : exec .phaseIdle s = .next t) : t.onTrack := by
  obtain ⟨-, -, rfl⟩ | ⟨-, -, rfl⟩ | ⟨-, rfl⟩ := exec_idle_eq_next.mp hexec
  · exact fun _ => State.pending_of_resolve rfl
  · exact fun hbusy => absurd rfl hbusy
  · exact fun hbusy => absurd rfl hbusy

theorem exec_phase_rule_onTrack {s t : State} (h : s.Inv) (htrack : s.onTrack)
    (hexec : exec s.phase.instr s = .next t) : t.onTrack := by
  by_cases hidle : s.phase = .idle
  · rw [hidle] at hexec
    exact exec_phaseIdle_onTrack hexec
  rw [State.onTrack_iff, exec_phase_rule_text hidle hexec]
  have hpending := State.onTrack_iff.mp htrack hidle
  cases hvalid : s.outValid with
  | false =>
    obtain ⟨hkeep, hcount⟩ := exec_digit_phase_pending h hidle hvalid hexec
    rw [hkeep, hcount]
    exact fun _ => hpending
  | true =>
    obtain ⟨⟨b, hbyte⟩, ⟨-, rfl⟩ | ⟨-, -, hlt, rfl⟩ | ⟨-, -, rfl⟩⟩ := (exec_emission_eq_next hvalid).mp hexec
    · exact fun hbusy => absurd rfl hbusy
    · intro _
      have hcount : s.taken.ocount.toNat = s.ocount.toNat + 1 := by
        rw [State.taken_frame]
        exact State.ocount_add_toNat hlt
      rw [h.pending_eq_cons hvalid hbyte] at hpending
      rw [hcount, ← List.tail_drop, ← hpending, List.tail_cons]
    · exact fun _ => hpending

/-- Settles O54: the reset state has no command in flight; acceptance starts with the whole string pending, and each
rule keeps what is pending or takes its first byte and counts it. -/
theorem stepKeepsOnTrack : Obligations.StepKeepsOnTrack := by
  intro s t h htrack hstep
  cases hrst : s.input.rst with
  | true =>
    rw [step_of_rst hrst] at hstep
    cases hstep
    exact fun hbusy => absurd rfl hbusy
  | false =>
    obtain ⟨u, hexec, rfl⟩ := exec_phase_rule_of_step hstep hrst
    exact exec_phase_rule_onTrack (s := s.clearDone) (t := u) h.clearDone htrack hexec

/-- Settles O55: the byte offered is the first pending one. -/
theorem offeredByteIsNextOfFormat : Obligations.OfferedByteIsNextOfFormat := by
  intro s h htrack hvalid
  obtain ⟨b, hbyte, -⟩ := offeredByteIsText s h hvalid
  have hbusy : s.phase ≠ .idle := fun hidle => by simp [State.outValid, hidle] at hvalid
  have hdrop : s.text.drop s.ocount.toNat = b :: s.taken.pending :=
    (State.onTrack_iff.mp htrack hbusy).symm.trans (h.pending_eq_cons hvalid hbyte)
  have hlen : s.text.length - s.ocount.toNat = s.taken.pending.length + 1 := by
    rw [← List.length_drop, hdrop, List.length_cons]
  refine ⟨b, hbyte, ?_, ?_⟩
  · exact (List.head?_drop ▸ congrArg List.head? hdrop : s.text[s.ocount.toNat]? = some b)
  · rw [(State.markers_of_taken hvalid hbyte).2, ← h.taken_pending_eq_nil_iff hvalid hbyte, ← List.length_eq_zero_iff]
    change _ ↔ s.ocount.toNat + 1 = s.text.length
    omega

end Sys2Proof.Machine
end

section
/-! A legal command from acceptance to completion (40_command.md R105; 60_exceptions.md R203; 70_reset_and_hazards.md
R238, R239): acceptance, the digit phases, the bytes with stalls between them, and the step that ends it. -/

namespace Sys2Proof.Machine

/-! ### Several steps -/

/-- `n` steps lead from `s` to `t`, and the sink takes `bytes` in them. -/
structure Reaches (n : Nat) (s t : State) (bytes : List Byte) : Prop where
  run_eq : run n s = .next t
  sends_eq : sends n s = bytes

theorem Reaches.refl (s : State) : Reaches 0 s s [] := ⟨rfl, rfl⟩

theorem Reaches.cons {n : Nat} {s t u : State} {first bytes : List Byte} (hstep : step s = .next t)
    (hsent : s.transferred = first) (h : Reaches n t u bytes) : Reaches (n + 1) s u (first ++ bytes) :=
  ⟨(run_succ_of_step hstep).trans h.run_eq, by rw [sends_succ_of_step hstep, hsent, h.sends_eq]⟩

theorem Reaches.single {s t : State} {bytes : List Byte} (hstep : step s = .next t) (hsent : s.transferred = bytes) :
    Reaches 1 s t bytes :=
  bytes.append_nil ▸ .cons hstep hsent (.refl t)

theorem Reaches.trans {m n : Nat} {s t u : State} {first second : List Byte} (hfirst : Reaches m s t first)
    (hsecond : Reaches n t u second) : Reaches (m + n) s u (first ++ second) := by
  induction m generalizing s first with
  | zero =>
    obtain ⟨hrun, rfl⟩ := hfirst
    cases hrun
    rwa [Nat.zero_add]
  | succ m ih =>
    obtain ⟨hrun, rfl⟩ := hfirst
    rw [run] at hrun
    split at hrun
    case h_1 v hstep =>
      rw [sends_succ_of_step hstep, List.append_assoc, Nat.succ_add]
      exact .cons hstep rfl (ih ⟨hrun, rfl⟩)
    all_goals cases hrun

/-! ### A command in flight -/

/-- A command in flight in a safe state: these bytes pending, this many counted, these samples ahead. -/
structure InFlight (c : Config) (pending : List Byte) (count : Nat) (ahead : List Inputs) (s : State) : Prop where
  inv : s.Inv
  busy : s.phase ≠ .idle
  cfg_eq : s.cfg = c
  pending_eq : s.pending = pending
  count_eq : s.ocount.toNat = count
  script_eq : s.script = ahead

theorem State.input_of_script {s : State} {i : Inputs} {rest : List Inputs} (h : s.script = i :: rest) :
    s.input = i := by
  rw [State.input, h]

/-- While a command is in flight DONE is 0 already, and a step is just the rule of its phase. -/
theorem InFlight.step_eq {c : Config} {pending : List Byte} {count : Nat} {i : Inputs} {rest : List Inputs}
    {s t : State} (h : InFlight c pending count (i :: rest) s) (hrst : i.rst = false)
    (hexec : exec s.phase.instr s = .next t) : step s = .next t.nextSample := by
  have hclear : s.clearDone = s := by rw [State.clearDone, ← h.inv.done_eq_false h.busy]
  rw [step_eq_phase_rule (State.input_of_script h.script_eq ▸ hrst), hclear, hexec]
  rfl

/-! ### Acceptance -/

/-- A legal command with these operands is offered to `s` in IDLE. -/
structure Offers (s : State) (offer : Inputs) (raw F : Nat) (S : Bool) : Prop where
  idle : s.phase = .idle
  rst_eq : offer.rst = false
  valid : offer.cmdValid = true
  raw_eq : raw = Spec.rawField s.cfg.width offer.cmdWord
  fbits_eq : F = Spec.fbitsField s.cfg.width offer.cmdWord
  signed_eq : S = Spec.signedField s.cfg.width offer.cmdWord
  legal : F ≤ s.cfg.w

/-- The steps the digit phases have still to make: RESOLVE's, and one for each digit. -/
def State.digitSteps (s : State) : Nat :=
  match s.phase with
  | .resolve =>
    1 + (intDigits (resolveFn s.cfg.width s.raw.toNat s.fb.toNat s.sgn).ip).length +
      (fracDigits s.cfg (resolveFn s.cfg.width s.raw.toNat s.fb.toNat s.sgn).fp s.fb.toNat).length
  | .intdig => (intDigits s.irem.toNat).length + (fracDigits s.cfg s.frem.toNat s.fb.toNat).length
  | .fracdig => (fracDigitsLoop s.cfg.width s.fb.toNat (s.cfg.k - s.fcnt.toNat) s.frem.toNat).length
  | _ => 0

section
variable {s : State}

theorem State.digitSteps_of_resolve (hp : s.phase = .resolve) :
    s.digitSteps = 1 + (intDigits (resolveFn s.cfg.width s.raw.toNat s.fb.toNat s.sgn).ip).length +
      (fracDigits s.cfg (resolveFn s.cfg.width s.raw.toNat s.fb.toNat s.sgn).fp s.fb.toNat).length := by
  simp only [State.digitSteps, hp]

theorem State.digitSteps_of_intdig (hp : s.phase = .intdig) :
    s.digitSteps = (intDigits s.irem.toNat).length + (fracDigits s.cfg s.frem.toNat s.fb.toNat).length := by
  simp only [State.digitSteps, hp]

theorem State.digitSteps_of_fracdig (hp : s.phase = .fracdig) :
    s.digitSteps = (fracDigitsLoop s.cfg.width s.fb.toNat (s.cfg.k - s.fcnt.toNat) s.frem.toNat).length := by
  simp only [State.digitSteps, hp]

theorem State.digitSteps_of_outValid (hvalid : s.outValid = true) : s.digitSteps = 0 := by
  obtain hp | hp | hp | hp := State.outValid_iff.mp hvalid <;> simp only [State.digitSteps, hp]

end

/-- The accepted command is in flight with its whole string pending. -/
theorem Offers.exists_inFlight {s : State} {offer : Inputs} {rest : List Inputs} {raw F : Nat} {S : Bool}
    (h : Offers s offer raw F S) (hscript : s.script = offer :: rest) :
    ∃ t, Reaches 1 s t [] ∧ InFlight s.cfg (format s.cfg raw F S) 0 rest t ∧
      t.digitSteps = 1 + (intDigits (resolveFn s.cfg.width raw F S).ip).length +
        (fracDigits s.cfg (resolveFn s.cfg.width raw F S).fp F).length := by
  obtain ⟨hidle, hrst, hvalid, rfl, rfl, rfl, hlegal⟩ := h
  have hinput := State.input_of_script hscript
  rw [← hinput] at hrst hvalid hlegal ⊢
  have hstep := step_eq_of_exec_phaseIdle hidle hrst
    (exec_phaseIdle_of_legal (s := s.clearDone) hvalid (s.portFbits_toNat ▸ hlegal))
  have hquiet : s.transferred = [] := State.transferred_of_quiet (by simp [State.outValid, hidle])
  refine ⟨_, Reaches.single hstep hquiet, ⟨?_, Phase.noConfusion, rfl, ?_, rfl, congrArg List.tail hscript⟩, ?_⟩
  · exact (State.accept_inv (s := s.clearDone) _ s.portRaw_lt (s.portFbits_toNat ▸ hlegal) rfl).nextSample
  · rw [State.pending_of_resolve rfl, ← s.portRaw_toNat, ← s.portFbits_toNat, ← s.portSigned_eq]
    rfl
  · rw [State.digitSteps_of_resolve rfl, ← s.portRaw_toNat, ← s.portFbits_toNat, ← s.portSigned_eq]
    rfl

/-! ### The digit phases -/

theorem State.digitSteps_of_fracdig_digit {s : State} (hp : s.phase = .fracdig) (hroom : s.fcnt.toNat < s.cfg.k) :
    s.digitSteps = s.laterFracDigits.length + 1 := by
  rw [State.digitSteps_of_fracdig hp, State.fracDigitsLoop_eq_cons hroom, List.length_cons]

theorem exec_phaseResolve_digitSteps {s t : State} (h : s.Inv) (hp : s.phase = .resolve)
    (hexec : exec .phaseResolve s = .next t) : t.digitSteps + 1 = s.digitSteps := by
  obtain ⟨⟨hraw, -⟩, -, ⟨hlegal, -⟩, -⟩ := (State.inv_iff_of_resolve hp).mp h
  cases hexec
  rw [State.digitSteps_of_intdig rfl, State.digitSteps_of_resolve hp]
  dsimp only
  rw [ofNat32_toNat (resolveFn_ip_lt s.sgn hraw hlegal), ofNat32_toNat (resolveFn_fp_lt s.sgn hraw hlegal)]
  omega

theorem exec_phaseIntdig_digitSteps {s t : State} (h : s.Inv) (hp : s.phase = .intdig)
    (hexec : exec .phaseIntdig s = .next t) : t.digitSteps + 1 = s.digitSteps := by
  obtain ⟨-, -, -, -, -, -, hfcnt, -⟩ := (State.inv_iff_of_intdig hp).mp h
  have hnone : s.fcnt.toNat = 0 := by rw [hfcnt]; rfl
  rw [State.digitSteps_of_intdig hp]
  obtain ⟨-, -, ⟨hlast, hfin⟩ | ⟨hmore, rfl⟩⟩ := exec_intdig_eq_next.mp hexec
  · rw [State.digitSteps_of_fracdig (finishIntdig_phase hfin), intDigits_eq s.irem.isLt, if_pos hlast]
    obtain ⟨-, rfl⟩ | ⟨-, -, -, rfl⟩ := finishIntdig_eq_next.mp hfin <;>
      simp [hnone, fracDigits, Nat.add_comm]
  · rw [State.digitSteps_of_intdig (s := s.withIntDigit) hp, State.withIntDigit_irem_toNat,
      intDigits_of_ten_le s.irem.isLt (by omega), List.length_append, List.length_singleton, Nat.add_right_comm]
    rfl

theorem exec_phaseFracdig_digitSteps {s t : State} (hp : s.phase = .fracdig)
    (hexec : exec .phaseFracdig s = .next t) : t.digitSteps + 1 = s.digitSteps := by
  obtain ⟨hroom, ⟨hend, rfl⟩ | ⟨hmore, rfl⟩⟩ := exec_fracdig_eq_next.mp hexec
  · rw [State.digitSteps_of_fracdig_digit hp hroom, State.laterFracDigits_of_ends hend, State.digitSteps_of_outValid
      (State.outValid_iff.mpr ((emitPhase_of_pol s.pol).imp_right .inl))]
    rfl
  · rw [State.digitSteps_of_fracdig_digit hp hroom, State.laterFracDigits_of_not_ends hroom hmore,
      State.digitSteps_of_fracdig (s := s.withFracDigit) hp]
    rfl

/-- Each step of a digit phase leaves one step less, and the command in flight. -/
theorem exec_digit_phase_steps {s t : State} (h : s.Inv) (hbusy : s.phase ≠ .idle) (hquiet : s.outValid = false)
    (hexec : exec s.phase.instr s = .next t) : t.phase ≠ .idle ∧ t.digitSteps + 1 = s.digitSteps := by
  refine ⟨fun hidle => ?_, ?_⟩
  · have hnext := hidle ▸ exec_phase_rule_successor hexec
    exact hnext.elim hbusy (by simp [hquiet])
  · have hquiet := mt State.outValid_iff.mpr (Bool.eq_false_iff.mp hquiet)
    cases hp : s.phase <;> rw [hp] at hexec
    case idle => exact absurd hp hbusy
    case resolve => exact exec_phaseResolve_digitSteps h hp hexec
    case intdig => exact exec_phaseIntdig_digitSteps h hp hexec
    case fracdig => exact exec_phaseFracdig_digitSteps hp hexec
    all_goals simp [hp] at hquiet

/-- When no digit step is left the machine offers a byte. -/
theorem State.Inv.outValid_of_digitSteps {s : State} (h : s.Inv) (hbusy : s.phase ≠ .idle) (hzero : s.digitSteps = 0) :
    s.outValid = true := by
  rw [State.outValid_iff]
  cases hp : s.phase
  case idle => exact absurd hp hbusy
  case resolve => rw [State.digitSteps_of_resolve hp] at hzero; omega
  case intdig =>
    have := intDigits_length_pos s.irem.isLt
    rw [State.digitSteps_of_intdig hp] at hzero
    omega
  case fracdig =>
    obtain ⟨-, -, -, -, -, -, hroom, -⟩ := (State.inv_iff_of_fracdig hp).mp h
    rw [State.digitSteps_of_fracdig_digit hp hroom] at hzero
    omega
  all_goals simp

/-- The digit phases consume one sample a step, whatever is on it but a reset, and send nothing. -/
theorem InFlight.exists_after_digits {c : Config} {pending : List Byte} {count : Nat} {pre rest : List Inputs}
    {s : State} (h : InFlight c pending count (pre ++ rest) s) (hpre : ∀ i ∈ pre, i.rst = false)
    (hlen : pre.length ≤ s.digitSteps) :
    ∃ t, Reaches pre.length s t [] ∧ InFlight c pending count rest t ∧ t.digitSteps + pre.length = s.digitSteps := by
  induction pre generalizing s with
  | nil => exact ⟨s, .refl s, h, rfl⟩
  | cons i pre ih =>
    obtain ⟨hrst, hlater⟩ := List.forall_mem_cons.mp hpre
    rw [List.length_cons] at hlen
    have hquiet : s.outValid = false := by
      by_contra hvalid
      have := State.digitSteps_of_outValid (Bool.not_eq_false _ ▸ hvalid)
      omega
    obtain ⟨u, hexec⟩ := exec_phase_rule_next h.inv
    have hstep := h.step_eq hrst hexec
    obtain ⟨hbusy, hsteps⟩ := exec_digit_phase_steps h.inv h.busy hquiet hexec
    obtain ⟨hpending, hcount⟩ := exec_digit_phase_pending h.inv h.busy hquiet hexec
    obtain ⟨hcfg, hscript⟩ := exec_phase_rule_cfg_script hexec
    have hnext : InFlight c pending count (pre ++ rest) u.nextSample :=
      ⟨stepKeepsInv _ _ h.inv hstep, hbusy, hcfg.trans h.cfg_eq, hpending.trans h.pending_eq,
        (congrArg BitVec.toNat hcount).trans h.count_eq, congrArg List.tail (hscript.trans h.script_eq)⟩
    obtain ⟨t, hreach, hflight, hleft⟩ := ih hnext hlater (show pre.length ≤ u.digitSteps by omega)
    refine ⟨t, .cons hstep (State.transferred_of_quiet hquiet) hreach, hflight, ?_⟩
    rw [List.length_cons]
    change t.digitSteps + pre.length = u.digitSteps at hleft
    omega

/-! ### Emission -/

/-- A byte taken in an emission step: the first one pending is sent and counted. -/
theorem InFlight.step_taken {c : Config} {b : Byte} {pending : List Byte} {count : Nat} {i : Inputs}
    {rest : List Inputs} {s : State} (h : InFlight c (b :: pending) count (i :: rest) s) (hvalid : s.outValid = true)
    (hrst : i.rst = false) (herr : i.snkErr = false) (hready : i.snkReady = true) :
    s.outByte = .ok b ∧ step s = .next s.taken.nextSample ∧ s.transferred = [b] ∧ s.taken.pending = pending ∧
      s.taken.ocount.toNat = count + 1 := by
  obtain ⟨b', hbyte, -⟩ := offeredByteIsText s h.inv hvalid
  obtain ⟨rfl, hpending⟩ := List.cons.inj ((h.inv.pending_eq_cons hvalid hbyte).symm.trans h.pending_eq)
  have hinput := State.input_of_script h.script_eq
  rw [← hinput] at herr hready
  have hexec := (exec_emission_eq_next hvalid).mpr ⟨⟨_, hbyte⟩, .inr (.inl ⟨herr, hready, h.inv.ocount_lt, rfl⟩)⟩
  refine ⟨hbyte, h.step_eq hrst hexec, State.transferred_of_taken hvalid (hinput ▸ hrst) herr hready hbyte, hpending,
    ?_⟩
  rw [State.taken_frame, ← h.count_eq]
  exact State.ocount_add_toNat h.inv.ocount_lt

/-- With stalls or without, each ready sample sends the next byte. -/
theorem InFlight.exists_after_bytes {c : Config} {bytes pending : List Byte} {count : Nat} {acc rest : List Inputs}
    {s : State} (h : InFlight c (bytes ++ pending) count (acc ++ rest) s) (hvalid : s.outValid = true)
    (hacc : ∀ i ∈ acc, i.rst = false ∧ i.snkErr = false) (hlen : (acc.filter fun i => i.snkReady).length = bytes.length)
    (hne : pending ≠ []) :
    ∃ t, Reaches acc.length s t bytes ∧ InFlight c pending (count + bytes.length) rest t ∧ t.outValid = true := by
  induction acc generalizing s bytes count with
  | nil =>
    obtain rfl := List.length_eq_zero_iff.mp hlen.symm
    exact ⟨s, .refl s, h, hvalid⟩
  | cons i acc ih =>
    obtain ⟨⟨hrst, herr⟩, hlater⟩ := List.forall_mem_cons.mp hacc
    cases hready : i.snkReady with
    | false =>
      obtain ⟨b, hbyte, -⟩ := offeredByteIsText s h.inv hvalid
      have hinput := State.input_of_script h.script_eq
      have hstep := step_of_stall hvalid hbyte (h.inv.done_eq_false h.busy) (hinput ▸ hrst) (hinput ▸ herr)
        (hinput ▸ hready)
      have hnext : InFlight c (bytes ++ pending) count (acc ++ rest) s.nextSample :=
        ⟨h.inv, h.busy, h.cfg_eq, h.pending_eq, h.count_eq, congrArg List.tail h.script_eq⟩
      rw [List.filter_cons_of_neg (by simp [hready])] at hlen
      obtain ⟨t, hreach, hflight⟩ := ih hnext hvalid hlater hlen
      exact ⟨t, .cons hstep (State.transferred_of_stall (hinput ▸ hready)) hreach, hflight⟩
    | true =>
      rw [List.filter_cons_of_pos hready, List.length_cons] at hlen
      obtain ⟨b, bytes, rfl⟩ := List.exists_cons_of_length_eq_add_one hlen.symm
      obtain ⟨hbyte, hstep, hsent, hpending, hcount⟩ := h.step_taken hvalid hrst herr hready
      have hbusy : s.taken.phase ≠ .idle := fun hidle => by
        rw [State.pending_of_idle hidle] at hpending
        exact hne (List.append_eq_nil_iff.mp hpending.symm).2
      have hnext : InFlight c (bytes ++ pending) (count + 1) (acc ++ rest) s.taken.nextSample :=
        ⟨stepKeepsInv _ _ h.inv hstep, hbusy, by rw [State.taken_frame]; exact h.cfg_eq, hpending, hcount,
          by rw [State.taken_frame]; exact congrArg List.tail h.script_eq⟩
      obtain ⟨t, hreach, hflight, hvalid'⟩ :=
        ih hnext (State.taken_outValid hvalid hbyte hbusy) hlater (by simpa using hlen)
      refine ⟨t, .cons hstep hsent hreach, ?_, hvalid'⟩
      rwa [List.length_cons, Nat.add_comm bytes.length, ← Nat.add_assoc]

/-! ### Completion -/

/-- The byte that leads to IDLE completes OK (R185). -/
theorem State.taken_of_idle {s : State} {b : Byte} (hvalid : s.outValid = true) (hbyte : s.outByte = .ok b)
    (hidle : s.taken.phase = .idle) : s.taken.done = true ∧ s.taken.result = .ok ∧ s.taken.errcode = 0#32 := by
  obtain ⟨hp, hlast⟩ := State.outEnd_iff.mp ((State.markers_of_taken hvalid hbyte).2.mpr hidle)
  obtain ⟨hcursor, -⟩ := (State.outByte_eq_ok_of_fbuf hp).mp hbyte
  rw [State.taken_of_emitFrac_last hp hcursor hlast]
  exact ⟨rfl, rfl, rfl⟩

/-- The acceptance of the last byte. -/
theorem InFlight.exists_completed {c : Config} {b : Byte} {count : Nat} {final : Inputs} {rest : List Inputs}
    {s : State} (h : InFlight c [b] count (final :: rest) s) (hvalid : s.outValid = true) (hrst : final.rst = false)
    (herr : final.snkErr = false) (hready : final.snkReady = true) :
    ∃ t, Reaches 1 s t [b] ∧ t.phase = .idle ∧ t.done = true ∧ t.result = .ok ∧ t.errcode = 0#32 ∧
      t.ocount.toNat = count + 1 := by
  obtain ⟨hbyte, hstep, hsent, hpending, hcount⟩ := h.step_taken hvalid hrst herr hready
  have hidle := (h.inv.taken_pending_eq_nil_iff hvalid hbyte).mp hpending
  obtain ⟨hdone, hresult, herrcode⟩ := State.taken_of_idle hvalid hbyte hidle
  exact ⟨_, .single hstep hsent, hidle, hdone, hresult, herrcode, hcount⟩

/-- The sink's failure (R181): no byte, and the sink's code. -/
theorem InFlight.exists_failed {c : Config} {pending : List Byte} {count : Nat} {fail : Inputs} {rest : List Inputs}
    {s : State} (h : InFlight c pending count (fail :: rest) s) (hvalid : s.outValid = true) (hrst : fail.rst = false)
    (herr : fail.snkErr = true) :
    ∃ t, Reaches 1 s t [] ∧ t.phase = .idle ∧ t.done = true ∧ t.result = .errSink ∧
      t.errcode.toNat = fail.snkCode.toNat % 2 ^ c.ew ∧ t.ocount.toNat = count := by
  obtain ⟨b, hbyte, -⟩ := offeredByteIsText s h.inv hvalid
  have hinput := State.input_of_script h.script_eq
  have hexec := (exec_emission_eq_next hvalid).mpr ⟨⟨b, hbyte⟩, .inl ⟨hinput ▸ herr, rfl⟩⟩
  refine ⟨_, .single (h.step_eq hrst hexec) (State.transferred_of_failure (hinput ▸ herr)), rfl, rfl, rfl, ?_,
    h.count_eq⟩
  have hcode : s.sinkCode < 2 ^ 32 := (Nat.mod_le _ _).trans_lt s.input.snkCode.isLt
  rw [← hinput, ← h.cfg_eq]
  exact (BitVec.toNat_ofNat _ _).trans (Nat.mod_eq_of_lt hcode)

/-! ### From end to end -/

/-- After acceptance and the digit phases the first byte is on offer, with the whole string pending. -/
theorem Offers.exists_emission {s : State} {offer : Inputs} {pre rest : List Inputs} {raw F : Nat} {S : Bool}
    (h : Offers s offer raw F S) (hscript : s.script = offer :: (pre ++ rest))
    (hlen : pre.length = 1 + (intDigits (resolveFn s.cfg.width raw F S).ip).length +
      (fracDigits s.cfg (resolveFn s.cfg.width raw F S).fp F).length)
    (hpre : ∀ i ∈ pre, i.rst = false) :
    ∃ t, Reaches (1 + pre.length) s t [] ∧ InFlight s.cfg (format s.cfg raw F S) 0 rest t ∧ t.outValid = true := by
  obtain ⟨u, hreach, hflight, hsteps⟩ := h.exists_inFlight hscript
  obtain ⟨t, hreach', hflight', hleft⟩ := hflight.exists_after_digits hpre (by omega)
  exact ⟨t, hreach.trans hreach', hflight', hflight'.inv.outValid_of_digitSteps hflight'.busy (by omega)⟩

theorem format_length (c : Config) (raw F : Nat) (S : Bool) :
    (format c raw F S).length = (resolveFn c.width raw F S).pol.toNat +
      (intDigits (resolveFn c.width raw F S).ip).length + 1 +
      (fracDigits c (resolveFn c.width raw F S).fp F).length := by
  cases hpol : (resolveFn c.width raw F S).pol <;> simp [format, signBytes, hpol] <;> omega

/-- Settles O56: all bytes but the last among `acc`, the last with `final`. -/
theorem commandSendsItsFormat : Obligations.CommandSendsItsFormat := by
  rintro s offer final pre acc rest raw F S r hidle hscript hrst hvalid hraw hF hS hlegal rfl hlen hpre hacc hready
    hfrst hferr hfready
  have hoffers : Offers s offer raw F S := ⟨hidle, hrst, hvalid, hraw, hF, hS, hlegal⟩
  rw [List.append_assoc] at hscript
  obtain ⟨u, hreach, hflight, huvalid⟩ := hoffers.exists_emission hscript hlen hpre
  have hne : format s.cfg raw F S ≠ [] := fun hnil => by simp [hnil] at hready
  have hsplit := List.dropLast_append_getLast hne
  rw [← hsplit] at hflight
  obtain ⟨v, hreach', hflight', hvvalid⟩ := hflight.exists_after_bytes huvalid hacc
    (by rw [List.length_dropLast]; omega) (List.cons_ne_nil _ _)
  obtain ⟨t, hreach'', hidle', hdone, hresult, herrcode, hcount⟩ :=
    hflight'.exists_completed hvvalid hfrst hferr hfready
  obtain ⟨hrun, hsends⟩ := (hreach.trans hreach').trans hreach''
  refine ⟨t, hrun, hidle', hdone, hresult, herrcode, ?_, hsends.trans hsplit⟩
  rw [hcount, List.length_dropLast]
  omega

/-- Settles O57: the first j bytes among `acc`, then the failure. -/
theorem failedSinkGetsPrefix : Obligations.FailedSinkGetsPrefix := by
  rintro s offer fail pre acc rest raw F j S r hidle hscript hrst hvalid hraw hF hS hlegal rfl hlen hpre hacc hready
    hj hfrst hferr
  have hoffers : Offers s offer raw F S := ⟨hidle, hrst, hvalid, hraw, hF, hS, hlegal⟩
  rw [List.append_assoc] at hscript
  obtain ⟨u, hreach, hflight, huvalid⟩ := hoffers.exists_emission hscript hlen hpre
  have htake : ((format s.cfg raw F S).take j).length = j := List.length_take_of_le hj.le
  rw [← List.take_append_drop j (format s.cfg raw F S)] at hflight
  obtain ⟨v, hreach', hflight', hvvalid⟩ := hflight.exists_after_bytes huvalid hacc (hready.trans htake.symm)
    (List.ne_nil_of_length_pos (by rw [List.length_drop]; omega))
  obtain ⟨t, hreach'', hidle', hdone, hresult, herrcode, hcount⟩ := hflight'.exists_failed hvvalid hfrst hferr
  obtain ⟨hrun, hsends⟩ := (hreach.trans hreach').trans hreach''
  refine ⟨t, hrun, hidle', hdone, hresult, herrcode, ?_, hsends.trans (List.append_nil _)⟩
  rw [hcount, htake, Nat.zero_add]

/-- Without stalls the command is in flight until the last byte: fewer samples than digit steps and bytes do not end
it. -/
theorem Offers.exists_busy {s : State} {offer : Inputs} {later rest : List Inputs} {raw F : Nat} {S : Bool}
    (h : Offers s offer raw F S) (hscript : s.script = offer :: (later ++ rest))
    (hlater : ∀ i ∈ later, i.rst = false ∧ i.snkErr = false ∧ i.snkReady = true)
    (hlen : later.length < 1 + (intDigits (resolveFn s.cfg.width raw F S).ip).length +
      (fracDigits s.cfg (resolveFn s.cfg.width raw F S).fp F).length + (format s.cfg raw F S).length) :
    ∃ t, run (1 + later.length) s = .next t ∧ t.phase ≠ .idle := by
  generalize hD : 1 + (intDigits (resolveFn s.cfg.width raw F S).ip).length +
    (fracDigits s.cfg (resolveFn s.cfg.width raw F S).fp F).length = D at hlen
  obtain hshort | hlong := Nat.le_total later.length D
  · obtain ⟨u, hreach, hflight, hsteps⟩ := h.exists_inFlight hscript
    obtain ⟨t, hreach', hflight', -⟩ :=
      hflight.exists_after_digits (fun i hi => (hlater i hi).1) (by omega)
    exact ⟨t, (hreach.trans hreach').run_eq, hflight'.busy⟩
  · have hpre : (later.take D).length = D := List.length_take_of_le hlong
    have hacc : (later.drop D).length = later.length - D := List.length_drop
    have hready : (later.drop D).filter (fun i => i.snkReady) = later.drop D :=
      List.filter_eq_self.mpr fun i hi => (hlater i (List.mem_of_mem_drop hi)).2.2
    rw [← List.take_append_drop D later, List.append_assoc] at hscript
    obtain ⟨u, hreach, hflight, huvalid⟩ := h.exists_emission hscript (hpre.trans hD.symm)
      fun i hi => (hlater i (List.mem_of_mem_take hi)).1
    rw [← List.take_append_drop (later.length - D) (format s.cfg raw F S)] at hflight
    obtain ⟨t, hreach', hflight', -⟩ := hflight.exists_after_bytes huvalid
      (fun i hi => ⟨(hlater i (List.mem_of_mem_drop hi)).1, (hlater i (List.mem_of_mem_drop hi)).2.1⟩)
      (by rw [hready, hacc, List.length_take_of_le (by omega)])
      (List.ne_nil_of_length_pos (by rw [List.length_drop]; omega))
    refine ⟨t, ?_, hflight'.busy⟩
    rw [show 1 + later.length = 1 + (later.take D).length + (later.drop D).length by omega]
    exact (hreach.trans hreach').run_eq

/-- R239: the longest command, with a sign, D(W) integer and K fractional digits. -/
theorem stepCount_le {c : Config} {raw F : Nat} (S : Bool) (hraw : raw < 2 ^ c.w) (hF : F ≤ c.w) :
    stepCount c raw F S ≤ 4 + 2 * c.width.digits + 2 * c.k := by
  have hpol := (resolveFn c.width raw F S).pol.toNat_le
  have hint := intDigits_length_le (resolveFn_ip_lt S hraw hF)
  have hfrac := fracDigits_length_le c (resolveFn c.width raw F S).fp F
  simp only [stepCount]
  omega

/-- The samples of a command without stalls: those of the digit phases, those of the bytes, the last one. -/
theorem exists_eq_append_append_singleton {n : Nat} {l : List Inputs} (h : n < l.length) :
    ∃ pre acc final, l = pre ++ acc ++ [final] ∧ pre.length = n := by
  have hne : l ≠ [] := List.ne_nil_of_length_pos (by omega)
  exact ⟨l.dropLast.take n, l.dropLast.drop n, l.getLast hne,
    by rw [List.take_append_drop, List.dropLast_append_getLast],
    List.length_take_of_le (by rw [List.length_dropLast]; omega)⟩

/-- Settles O58: one step for each sample, the digit phases first, then a byte a step. -/
theorem unstalledStepCount : Obligations.UnstalledStepCount := by
  rintro s offer later rest raw F N S r hidle hscript hrst hvalid hraw hF hS hlegal rfl hN hlen hlater
  have hoffers : Offers s offer raw F S := ⟨hidle, hrst, hvalid, hraw, hF, hS, hlegal⟩
  have hbytes := format_length s.cfg raw F S
  refine ⟨?complete, fun n hone hlt => ?busy, hN.symm, ?bound⟩
  case complete =>
    obtain ⟨pre, acc, final, rfl, hpre⟩ := exists_eq_append_append_singleton
      (show 1 + (intDigits (resolveFn s.cfg.width raw F S).ip).length +
        (fracDigits s.cfg (resolveFn s.cfg.width raw F S).fp F).length < later.length by omega)
    simp only [List.forall_mem_append, List.forall_mem_singleton] at hlater
    obtain ⟨⟨hpre', hacc⟩, hfrst, hferr, hfready⟩ := hlater
    rw [List.append_assoc (pre ++ acc), List.singleton_append] at hscript
    simp only [List.length_append, List.length_singleton] at hlen
    have hready : acc.filter (fun i => i.snkReady) = acc := List.filter_eq_self.mpr fun i hi => (hacc i hi).2.2
    obtain ⟨t, hrun, hidle', hdone, hresult, -⟩ := commandSendsItsFormat s offer final pre acc rest raw F S _ hidle
      hscript hrst hvalid hraw hF hS hlegal rfl hpre (fun i hi => (hpre' i hi).1)
      (fun i hi => ⟨(hacc i hi).1, (hacc i hi).2.1⟩) (by rw [hready]; omega) hfrst hferr hfready
    exact ⟨t, by rw [← hrun, ← hlen]; congr 1; omega, hidle', hdone, hresult⟩
  case busy =>
    have htake : (later.take (n - 1)).length = n - 1 := List.length_take_of_le (by omega)
    rw [← List.take_append_drop (n - 1) later, List.append_assoc] at hscript
    obtain ⟨t, hrun, hbusy⟩ := hoffers.exists_busy hscript (fun i hi => hlater i (List.mem_of_mem_take hi)) (by omega)
    rw [htake, Nat.add_sub_cancel' hone] at hrun
    exact ⟨t, hrun, hbusy⟩
  case bound =>
    rw [hN]
    exact stepCount_le S (hraw ▸ Nat.mod_lt _ (Nat.two_pow_pos _)) hlegal

end Sys2Proof.Machine
end
